-- ==== Sys2Proof/Word.lean ====
section
/-! DEFINITION. The word types: a command byte, a 32-bit data word, and a Sample (00_scope.md R7: `FMT` is
IEEE 754 binary32; 30_encoding.md R96: a data word is the bit pattern of a Sample, used as it stands). -/

namespace Sys2Proof

/-- One byte of a port's command stream (30_encoding.md R91). -/
abbrev Byte := BitVec 8

/-- One 32-bit data word of a command or of a response (30_encoding.md R91, R98). -/
abbrev Word := BitVec 32

/-- A Sample: an IEEE 754 binary32 bit pattern, sign in bit 31 (00_scope.md R7; 30_encoding.md R96).
Every pattern is a Sample, infinities, NaNs and subnormals included. -/
abbrev Sample := BitVec 32

/-- `+0`, "the value with all bits zero" (00_scope.md R13). -/
def posZero : Sample := 0#32

end Sys2Proof
end

