-- ==== Sys2Proof/Machine/Operands.lean ====
section
/-! DEFINITION. Operand assembly (30_encoding.md R96): a data word is a Sample's bit pattern "used as it stands: no sign
or zero extension, no scaling, no shift". On a port it is serialised "least significant byte first" (20_memory.md R62). -/

namespace Sys2Proof.Operands

/-- The data word whose four bytes arrive in this order (20_memory.md R62). -/
def wordOfBytes (b0 b1 b2 b3 : Byte) : Word := b3 ++ b2 ++ b1 ++ b0

/-- Byte `k` of a data word, byte 0 the least significant. -/
def byteOf (w : Word) (k : Nat) : Byte := w.extractLsb' (8 * k) 8

/-- The four bytes of a data word in the order they are serialised (20_memory.md R62). -/
def bytesOfWord (w : Word) : List Byte := [byteOf w 0, byteOf w 1, byteOf w 2, byteOf w 3]

end Sys2Proof.Operands
end

