-- ==== Sys2Proof/Syntax.lean ====
section
/-! DEFINITION. The closed set of operations (30_encoding.md R92, spec/opcode_table.json): one constructor per row,
and the names of the block's two ring buffers and three FIR instances (00_scope.md R3). -/

namespace Sys2Proof

/-- The two Ring Buffer instances: `IN` (ingress) and `OUT` (egress) (00_scope.md R3, R16). -/
inductive RingId where
  | ingress
  | egress
  deriving DecidableEq, Repr

/-- The three FIR Filter instances: I branch, Q branch, output audio (00_scope.md R3, R16). -/
inductive FirId where
  | i
  | q
  | o
  deriving DecidableEq, Repr

/-- The eighteen operations of 30_encoding.md R92, in the table's order. -/
inductive Instr where
  /-- `SYS.RESET` (45_system.md R200) -/
  | sysReset
  /-- `SYS.START` (R201) -/
  | sysStart
  /-- `SYS.STOP` (R203) -/
  | sysStop
  /-- `SYS.STATUS` (R204) -/
  | sysStatus
  /-- `RB.PUSH IN v` (40_ring_buffer.md R111) -/
  | rbPushIn (v : Sample)
  /-- `RB.POP IN` (R112) -/
  | rbPopIn
  /-- `RB.EMPTY IN` (R113) -/
  | rbEmptyIn
  /-- `RB.PUSH OUT v` (R111) -/
  | rbPushOut (v : Sample)
  /-- `RB.POP OUT` (R112) -/
  | rbPopOut
  /-- `RB.EMPTY OUT` (R113) -/
  | rbEmptyOut
  /-- `DDC.MIX x` (41_downconverter.md R130) -/
  | ddcMix (x : Sample)
  /-- `FIR.STEP I x` (42_fir_filter.md R141) -/
  | firStepI (x : Sample)
  /-- `FIR.STEP Q x` (R141) -/
  | firStepQ (x : Sample)
  /-- `FIR.STEP O x` (R141) -/
  | firStepO (x : Sample)
  /-- `DISC.STEP re0 im0` (43_discriminator.md R161) -/
  | discStep (re0 im0 : Sample)
  /-- `LOOP.FETCH` (44_processing_loop.md R181) -/
  | loopFetch
  /-- `LOOP.COMPUTE` (R182) -/
  | loopCompute
  /-- `LOOP.EMIT` (R183) -/
  | loopEmit
  deriving DecidableEq, Repr

end Sys2Proof
end

