-- ==== Sys2Proof/Decode.lean ====
section
/-! DEFINITION. The decoder and the encoder (30_encoding.md R91 to R99). A command is a command byte, `unit` in bits 7:5,
`inst` in 4:3, `fn` in 2:0, and then the data words its format has. -/

namespace Sys2Proof

/-- A command's format (30_encoding.md R91), with the operation it makes of its data words. -/
inductive Form where
  /-- format `C`, 8 bits -/
  | c (i : Instr)
  /-- format `CD`, 40 bits -/
  | cd (f : Word → Instr)
  /-- format `CDD`, 72 bits -/
  | cdd (f : Word → Word → Instr)

/-- The length of a format in bytes (30_encoding.md R91, R97, R104). -/
def Form.bytes : Form → Nat
  | .c _ => 1
  | .cd _ => 5
  | .cdd _ => 9

/-- `cmd[7:5]`, `cmd[4:3]`, `cmd[2:0]` (30_encoding.md R91). -/
def unitField (b : Byte) : BitVec 3 := b.extractLsb' 5 3

def instField (b : Byte) : BitVec 2 := b.extractLsb' 3 2

def fnField (b : Byte) : BitVec 3 := b.extractLsb' 0 3

/-- What `fn` names for each unit that has an instance 0 only: `SYS` 0, `DDC` 2, `DISC` 4, `LOOP` 5 (30_encoding.md R93 to R95). -/
def formSys (fn : Nat) : Option Form :=
  match fn with
  | 0 => some (.c .sysReset)
  | 1 => some (.c .sysStart)
  | 2 => some (.c .sysStop)
  | 3 => some (.c .sysStatus)
  | _ => none

def formLoop (fn : Nat) : Option Form :=
  match fn with
  | 0 => some (.c .loopFetch)
  | 1 => some (.c .loopCompute)
  | 2 => some (.c .loopEmit)
  | _ => none

/-- `RB`, unit 1: instance 0 is `IN`, 1 is `OUT`; `PUSH`, `POP`, `EMPTY` (30_encoding.md R94, R95). -/
def formRing (inst fn : Nat) : Option Form :=
  match inst, fn with
  | 0, 0 => some (.cd .rbPushIn)
  | 0, 1 => some (.c .rbPopIn)
  | 0, 2 => some (.c .rbEmptyIn)
  | 1, 0 => some (.cd .rbPushOut)
  | 1, 1 => some (.c .rbPopOut)
  | 1, 2 => some (.c .rbEmptyOut)
  | _, _ => none

/-- `FIR`, unit 3: instance 0 is `I`, 1 is `Q`, 2 is `O`; `STEP` (30_encoding.md R94, R95). -/
def formFir (inst fn : Nat) : Option Form :=
  match inst, fn with
  | 0, 0 => some (.cd .firStepI)
  | 1, 0 => some (.cd .firStepQ)
  | 2, 0 => some (.cd .firStepO)
  | _, _ => none

/-- The operation and format of a command byte, none for the 238 reserved bytes (30_encoding.md R92, R97, R99). -/
def formOf (b : Byte) : Option Form :=
  match (unitField b).toNat, (instField b).toNat, (fnField b).toNat with
  | 0, 0, fn => formSys fn
  | 1, inst, fn => formRing inst fn
  | 2, 0, 0 => some (.cd .ddcMix)
  | 3, inst, fn => formFir inst fn
  | 4, 0, 0 => some (.cdd .discStep)
  | 5, 0, fn => formLoop fn
  | _, _, _ => none

/-- What stands at the front of a port's byte stream. -/
inductive Decoded where
  /-- a whole command, and the bytes after it -/
  | instr (i : Instr) (rest : List Byte)
  /-- a reserved command byte, one byte long, and the bytes after it: it "consumes no data words" (30_encoding.md R99) -/
  | reserved (cmd : Byte) (rest : List Byte)
  /-- no command byte, or a command whose data words have not all arrived (log 5) -/
  | incomplete
  deriving DecidableEq, Repr

/-- The decoder, total on every list of bytes (30_encoding.md R99: "A decoder is total"). -/
def decode : List Byte → Decoded
  | [] => .incomplete
  | b :: rest =>
    match formOf b with
    | none => .reserved b rest
    | some (.c i) => .instr i rest
    | some (.cd f) =>
      match rest with
      | b0 :: b1 :: b2 :: b3 :: rest' => .instr (f (Operands.wordOfBytes b0 b1 b2 b3)) rest'
      | _ => .incomplete
    | some (.cdd f) =>
      match rest with
      | b0 :: b1 :: b2 :: b3 :: b4 :: b5 :: b6 :: b7 :: rest' =>
        .instr (f (Operands.wordOfBytes b0 b1 b2 b3) (Operands.wordOfBytes b4 b5 b6 b7)) rest'
      | _ => .incomplete

/-- `unit`, `inst` and `fn` of an operation (30_encoding.md R93, R94, R95, and the binary column of R92). -/
def Instr.fields : Instr → BitVec 3 × BitVec 2 × BitVec 3
  | .sysReset => (0, 0, 0)
  | .sysStart => (0, 0, 1)
  | .sysStop => (0, 0, 2)
  | .sysStatus => (0, 0, 3)
  | .rbPushIn _ => (1, 0, 0)
  | .rbPopIn => (1, 0, 1)
  | .rbEmptyIn => (1, 0, 2)
  | .rbPushOut _ => (1, 1, 0)
  | .rbPopOut => (1, 1, 1)
  | .rbEmptyOut => (1, 1, 2)
  | .ddcMix _ => (2, 0, 0)
  | .firStepI _ => (3, 0, 0)
  | .firStepQ _ => (3, 1, 0)
  | .firStepO _ => (3, 2, 0)
  | .discStep _ _ => (4, 0, 0)
  | .loopFetch => (5, 0, 0)
  | .loopCompute => (5, 0, 1)
  | .loopEmit => (5, 0, 2)

/-- The command byte of an operation: `unit ++ inst ++ fn` (30_encoding.md R91). -/
def Instr.cmdByte (i : Instr) : Byte := i.fields.1 ++ i.fields.2.1 ++ i.fields.2.2

/-- The data words of an operation, `d0` first (30_encoding.md R91). -/
def Instr.operands : Instr → List Word
  | .rbPushIn v => [v]
  | .rbPushOut v => [v]
  | .ddcMix x => [x]
  | .firStepI x => [x]
  | .firStepQ x => [x]
  | .firStepO x => [x]
  | .discStep re0 im0 => [re0, im0]
  | _ => []

/-- The encoder: the bytes of an operation as they cross a port. -/
def encode (i : Instr) : List Byte := i.cmdByte :: i.operands.flatMap Operands.bytesOfWord

/-! The whole command as one bit vector has the command byte most significant, then `d0`, then `d1` (30_encoding.md R91);
spec/opcode_table.json numbers its bits so. -/

/-- The whole command as one bit vector, read as a number (30_encoding.md R91). -/
def commandWord (i : Instr) : Nat := i.operands.foldl (fun acc w => acc * 2 ^ 32 + w.toNat) i.cmdByte.toNat

/-- How many bits the whole command has: 8, 40 or 72 (30_encoding.md R91, R104). -/
def commandBits (i : Instr) : Nat := 8 + 32 * i.operands.length

/-- How many bytes the command that starts with this byte has (30_encoding.md R97: "a function of its command byte
alone"; a reserved byte is one byte long, R99). -/
def commandLength (cmd : Byte) : Nat :=
  match formOf cmd with
  | some f => f.bytes
  | none => 1

/-- The bytes of the command `cmd` with the data words its format takes of `d0`, `d1`. -/
def commandBytes (cmd : Byte) (d0 d1 : Word) : List Byte :=
  (cmd :: (Operands.bytesOfWord d0 ++ Operands.bytesOfWord d1)).take (commandLength cmd)

/-- The bytes a port receives for the command whose bits are `w`, `nbits` of them, missing data bits zero. The command
byte is the most significant byte, as R91 and the table number it; only where that gives no command of `nbits` bits and
the least significant byte does, the first byte is read there (log 11). -/
def tableBytes (nbits w : Nat) : List Byte :=
  let whole := w <<< (72 - nbits) >>> (nbits - 72)
  let top := BitVec.ofNat 8 (whole >>> 64)
  let low := BitVec.ofNat 8 w
  if 8 * commandLength top ≠ nbits ∧ 8 * commandLength low = nbits then
    commandBytes low (BitVec.ofNat 32 (w >>> 8)) (BitVec.ofNat 32 (w >>> 40))
  else
    commandBytes top (BitVec.ofNat 32 (whole >>> 32)) (BitVec.ofNat 32 whole)

/-- The instruction the decoder reads from a table word; none where it refuses, or where the word is longer than the
command its command byte starts. -/
def decodeTableWord (nbits w : Nat) : Option Instr :=
  match decode (tableBytes nbits w) with
  | .instr i _ => if nbits ≤ 8 * (encode i).length then some i else none
  | _ => none

end Sys2Proof
end

