-- ==== Sys2Proof/Machine/FloatBits.lean ====
section
/-! DEFINITION. The fields and the value of a binary32 bit pattern (00_scope.md R7, R13; 30_encoding.md R96: bit 31
sign, bits 30:23 biased exponent, bits 22:0 fraction). Every finite value is a whole number of units of `2^-149`,
so magnitudes are kept as natural numbers of such units. -/

namespace Sys2Proof.Fp

/-- Bit 31 (30_encoding.md R96). -/
def signBit (x : Sample) : Bool := x.msb

/-- Bits 30:0, exponent and fraction together, as a number. -/
def magBits (x : Sample) : Nat := x.toNat % 2 ^ 31

/-- The magnitude bits of an infinity: exponent field 255, fraction 0. -/
def infMag : Nat := 0x7F800000

def isNaN (x : Sample) : Bool := decide (infMag < magBits x)

def isInf (x : Sample) : Bool := decide (magBits x = infMag)

def isFinite (x : Sample) : Bool := decide (magBits x < infMag)

/-- True exactly for `+0` and `-0`, false for a NaN (00_scope.md R13). -/
def isZero (x : Sample) : Bool := decide (magBits x = 0)

/-- The magnitude in units of `2^-149` that the finite magnitude bits `m` stand for: the fraction itself when the
exponent field is 0 (subnormals are kept, D4), else `1.fraction` scaled by the exponent. -/
def units (m : Nat) : Nat :=
  if m / 2 ^ 23 = 0 then m else (2 ^ 23 + m % 2 ^ 23) * 2 ^ (m / 2 ^ 23 - 1)

/-- One unit in the last place of the magnitude bits `m`, in units of `2^-149`. -/
def ulpUnits (m : Nat) : Nat := 2 ^ (m / 2 ^ 23 - 1)

/-- The value of the finite magnitude bits `m`. -/
def magValue (m : Nat) : ℚ := (units m : ℚ) / 2 ^ 149

/-- The value of a finite Sample. -/
def value (x : Sample) : ℚ := if signBit x then -magValue (magBits x) else magValue (magBits x)

/-- The finite value as a whole number of units of `2^-149`. -/
def intUnits (x : Sample) : Int := if signBit x then -(units (magBits x) : Int) else units (magBits x)

/-- The order of IEEE 754 comparison on all Samples but NaNs: `x <= y` exactly when `ord x <= ord y`. -/
def ord (x : Sample) : Int := if signBit x then -(magBits x : Int) else magBits x

/-- "Numerically equal" (00_scope.md R13): equal under IEEE 754 comparison, so `+0` equals `-0` and a NaN equals nothing. -/
def numEq (x y : Sample) : Bool := !isNaN x && !isNaN y && decide (ord x = ord y)

/-- The Sample with sign `s` and magnitude bits `m`. -/
def ofSignMag (s : Bool) (m : Nat) : Sample := BitVec.ofNat 32 ((if s then 2 ^ 31 else 0) + m)

end Sys2Proof.Fp
end

