-- ==== Sys2Proof/Config/Arctan.lean ====
section
/-! DEFINITION. The functions 43_discriminator.md R165 admits as the configured arctangent. `AtanFn` is the type of
all of them on positive finite magnitudes (the signs, the zeros, the infinities and the NaNs are fixed by R165 and
written out in Machine/Float.lean). The type has to be inhabited before Config may leave a member of it open: the
rest of this file shows one member exists. That member is no choice of the model's; nothing can be proved of
`Config.atan` but what R165 says. -/

namespace Sys2Proof.Config

/-- `RN(pi/2)` in binary32, 1.57079637050628662109375: the magnitude of `Atan` of an infinity (43_discriminator.md R165).
DEDUCED: the pattern is worked out from the real number, log 9. -/
def halfPiMag : Nat := 0x3FC90FDB

/-- R165: "`Atan` is monotone non-decreasing", on positive finite magnitudes, and no result lies above `RN(pi/2)`, the
result at infinity. -/
def AtanMonotone (f : Nat → Nat) : Prop :=
  (∀ a b, a ≤ b → b < Fp.infMag → f a ≤ f b) ∧ ∀ a, f a ≤ halfPiMag

/-- R165: "for finite `x`, `Atan(x)` is within one unit in the last place of the real `atan(x)`". The unit in the last
place is that of the result (log 9). -/
def AtanAccurate (f : Nat → Nat) : Prop :=
  ∀ a, a < Fp.infMag →
    |((Fp.magValue (f a) : ℚ) : ℝ) - Real.arctan ((Fp.magValue a : ℚ) : ℝ)| ≤ (Fp.ulpUnits (f a) : ℝ) / 2 ^ 149

/-! A computable function with both properties: the greatest result whose lower rounding boundary lies at or below a
lower Riemann sum of the integral of `1 / (1 + t^2)`. -/

/-- The lower Riemann sum of `1 / (1 + t^2)` from 0 to `x` in `n` pieces. -/
def lowerSum (x : ℚ) (n : Nat) : ℚ :=
  ∑ i ∈ Finset.range n, x / n / (1 + ((i + 1 : ℚ) * (x / n)) ^ 2)

/-- The midpoint between the magnitudes `b - 1` and `b`. -/
def lowerMid (b : Nat) : ℚ := (Fp.magValue b + Fp.magValue (b - 1)) / 2

/-- Enough pieces for the sum to lie within half a unit in the last place of the integral, whatever the magnitude. -/
def pieces : Nat := 2 ^ 139 * 2 ^ 139

def someAtan (a : Nat) : Nat :=
  Nat.findGreatest (fun b => ∃ y, y ≤ a ∧ lowerMid b ≤ lowerSum (Fp.magValue y) pieces) halfPiMag

theorem arctan_gap {a b : ℝ} (ha : 0 ≤ a) (hab : a ≤ b) :
    (b - a) / (1 + b ^ 2) ≤ Real.arctan b - Real.arctan a ∧
      Real.arctan b - Real.arctan a ≤ (b - a) / (1 + a ^ 2) := by
  rcases eq_or_lt_of_le hab with rfl | hlt
  · simp
  obtain ⟨c, ⟨hac, hcb⟩, hc⟩ := exists_hasDerivAt_eq_slope Real.arctan (fun x => 1 / (1 + x ^ 2)) hlt
    Real.continuous_arctan.continuousOn (fun x _ => Real.hasDerivAt_arctan x)
  have hpos : 0 < b - a := sub_pos.mpr hlt
  have key : Real.arctan b - Real.arctan a = (b - a) / (1 + c ^ 2) := by
    rw [eq_div_iff hpos.ne'] at hc
    rw [← hc]; ring
  rw [key]
  constructor <;> apply div_le_div_of_nonneg_left hpos.le (by positivity) <;> nlinarith

theorem lowerSum_bounds (x : ℚ) (hx : 0 ≤ x) (n : Nat) (hn : 0 < n) :
    ((lowerSum x n : ℚ) : ℝ) ≤ Real.arctan x ∧ Real.arctan x ≤ ((lowerSum x n : ℚ) : ℝ) + (x : ℝ) / n := by
  have hn' : (0 : ℝ) < n := by exact_mod_cast hn
  set h : ℝ := (x : ℝ) / n with hh
  have hx' : (0 : ℝ) ≤ x := by exact_mod_cast hx
  have hpos : 0 ≤ h := by positivity
  have hL : ((lowerSum x n : ℚ) : ℝ) = ∑ i ∈ Finset.range n, h / (1 + ((i + 1 : ℝ) * h) ^ 2) := by
    simp [lowerSum, hh]
  have htel : Real.arctan x = ∑ i ∈ Finset.range n, (Real.arctan ((i + 1 : ℝ) * h) - Real.arctan ((i : ℝ) * h)) := by
    have := Finset.sum_range_sub (fun i : ℕ => Real.arctan ((i : ℝ) * h)) n
    push_cast at this
    rw [this]
    have hnh : (n : ℝ) * h = x := by rw [hh]; field_simp
    simp [hnh]
  have hstep (i : ℕ) := arctan_gap (a := (i : ℝ) * h) (b := (i + 1 : ℝ) * h) (by positivity) (by nlinarith)
  have hdiff (i : ℕ) : (i + 1 : ℝ) * h - i * h = h := by ring
  have hbound : ∑ i ∈ Finset.range n, (h / (1 + ((i : ℝ) * h) ^ 2) - h / (1 + ((i + 1 : ℝ) * h) ^ 2)) ≤ h := by
    have := Finset.sum_range_sub' (fun i : ℕ => h / (1 + ((i : ℝ) * h) ^ 2)) n
    push_cast at this
    rw [this]
    have : 0 ≤ h / (1 + ((n : ℝ) * h) ^ 2) := by positivity
    simp only [zero_mul]
    norm_num
    linarith
  rw [hL, htel]
  constructor
  · apply Finset.sum_le_sum
    intro i _
    have := (hstep i).1
    rwa [hdiff] at this
  · rw [Finset.sum_sub_distrib] at hbound
    have : ∑ i ∈ Finset.range n, (Real.arctan ((i + 1 : ℝ) * h) - Real.arctan ((i : ℝ) * h)) ≤
        ∑ i ∈ Finset.range n, h / (1 + ((i : ℝ) * h) ^ 2) := by
      apply Finset.sum_le_sum
      intro i _
      have := (hstep i).2
      rwa [hdiff] at this
    linarith

/-- Adjacent magnitudes are one unit in the last place of the lower one apart. -/
theorem units_succ (m : Nat) : Fp.units (m + 1) = Fp.units m + Fp.ulpUnits m := by
  unfold Fp.units Fp.ulpUnits
  set e := m / 2 ^ 23 with he
  set r := m % 2 ^ 23 with hr
  have hm : m = 2 ^ 23 * e + r := (Nat.div_add_mod m (2 ^ 23)).symm
  have hlt : r < 2 ^ 23 := Nat.mod_lt _ (by norm_num)
  by_cases hc : r + 1 = 2 ^ 23
  · have h1 : (m + 1) / 2 ^ 23 = e + 1 := by omega
    have h2 : (m + 1) % 2 ^ 23 = 0 := by omega
    rw [h1, h2]
    rcases Nat.eq_zero_or_pos e with h0 | h0
    · simp [h0]; omega
    · obtain ⟨k, hk⟩ : ∃ k, e = k + 1 := ⟨e - 1, by omega⟩
      have hr' : r = 2 ^ 23 - 1 := by omega
      simp [hk, hr', pow_succ]; ring
  · have h1 : (m + 1) / 2 ^ 23 = e := by omega
    have h2 : (m + 1) % 2 ^ 23 = r + 1 := by omega
    rw [h1, h2]
    rcases Nat.eq_zero_or_pos e with h0 | h0
    · simp [h0]
    · simp only [if_neg h0.ne']; ring

theorem magValue_succ (m : Nat) : Fp.magValue (m + 1) = Fp.magValue m + (Fp.ulpUnits m : ℚ) / 2 ^ 149 := by
  simp only [Fp.magValue, units_succ]; push_cast; ring

theorem ulpUnits_mono {a b : Nat} (h : a ≤ b) : Fp.ulpUnits a ≤ Fp.ulpUnits b :=
  Nat.pow_le_pow_right (by norm_num) (Nat.sub_le_sub_right (Nat.div_le_div_right h) 1)

theorem units_mono {a b : Nat} (h : a ≤ b) : Fp.units a ≤ Fp.units b :=
  monotone_nat_of_le_succ (fun n => by rw [units_succ]; omega) h

theorem magValue_mono {a b : Nat} (h : a ≤ b) : Fp.magValue a ≤ Fp.magValue b := by
  unfold Fp.magValue
  have : (Fp.units a : ℚ) ≤ Fp.units b := by exact_mod_cast units_mono h
  gcongr

theorem magValue_nonneg (a : Nat) : 0 ≤ Fp.magValue a := by unfold Fp.magValue; positivity

theorem magValue_finite_lt {a : Nat} (h : a < Fp.infMag) : Fp.magValue a ≤ 2 ^ 128 := by
  refine (magValue_mono h.le).trans ?_
  norm_num [Fp.magValue, Fp.units, Fp.infMag]

theorem pieces_pos : 0 < pieces := by norm_num [pieces]

theorem someAtan_monotone : AtanMonotone someAtan := by
  refine ⟨fun a b hab _ => Nat.findGreatest_mono_left ?_ _, fun a => Nat.findGreatest_le _⟩
  rintro c ⟨y, hy, hc⟩
  exact ⟨y, hy.trans hab, hc⟩

theorem someAtan_accurate : AtanAccurate someAtan := by
  intro a ha
  set b := someAtan a with hb
  have hP0 : ∃ y, y ≤ a ∧ lowerMid 0 ≤ lowerSum (Fp.magValue y) pieces :=
    ⟨0, Nat.zero_le _, by simp [lowerMid, lowerSum, Fp.magValue, Fp.units]⟩
  have hPb : ∃ y, y ≤ a ∧ lowerMid b ≤ lowerSum (Fp.magValue y) pieces :=
    Nat.findGreatest_spec (P := fun b => ∃ y, y ≤ a ∧ lowerMid b ≤ lowerSum (Fp.magValue y) pieces)
      (Nat.zero_le halfPiMag) hP0
  have hulp : (1 : ℝ) ≤ Fp.ulpUnits b := by exact_mod_cast Nat.one_le_two_pow
  have hlow : ((lowerMid b : ℚ) : ℝ) ≤ Real.arctan (Fp.magValue a : ℚ) := by
    obtain ⟨y, hy, hm⟩ := hPb
    calc ((lowerMid b : ℚ) : ℝ) ≤ (lowerSum (Fp.magValue y) pieces : ℚ) := by exact_mod_cast hm
      _ ≤ Real.arctan (Fp.magValue y : ℚ) := (lowerSum_bounds _ (magValue_nonneg y) _ pieces_pos).1
      _ ≤ _ := Real.arctan_strictMono.monotone (by exact_mod_cast magValue_mono hy)
  have hprev : (Fp.magValue b : ℝ) - (Fp.ulpUnits b : ℝ) / 2 ^ 149 ≤ (Fp.magValue (b - 1) : ℚ) := by
    rcases Nat.eq_zero_or_pos b with h0 | h0
    · rw [h0]; norm_num [Fp.magValue, Fp.units, Fp.ulpUnits]
    · have h1 := magValue_succ (b - 1)
      rw [Nat.sub_add_cancel h0] at h1
      have h2 : (Fp.ulpUnits (b - 1) : ℚ) ≤ Fp.ulpUnits b := by exact_mod_cast ulpUnits_mono (Nat.sub_le b 1)
      have h3 : Fp.magValue b - (Fp.ulpUnits b : ℚ) / 2 ^ 149 ≤ Fp.magValue (b - 1) := by
        rw [h1]
        have : (Fp.ulpUnits (b - 1) : ℚ) / 2 ^ 149 ≤ (Fp.ulpUnits b : ℚ) / 2 ^ 149 := by gcongr
        linarith
      have h4 : ((Fp.magValue b - (Fp.ulpUnits b : ℚ) / 2 ^ 149 : ℚ) : ℝ) ≤ (Fp.magValue (b - 1) : ℚ) := by
        exact_mod_cast h3
      push_cast at h4
      exact h4
  have hmidb : ((lowerMid b : ℚ) : ℝ) = ((Fp.magValue b : ℝ) + (Fp.magValue (b - 1) : ℚ)) / 2 := by
    simp [lowerMid]
  have hpos : (0 : ℝ) < (Fp.ulpUnits b : ℝ) / 2 ^ 149 := by positivity
  rw [abs_le]
  constructor
  · rcases eq_or_lt_of_le (Nat.findGreatest_le (P := fun b => ∃ y, y ≤ a ∧
      lowerMid b ≤ lowerSum (Fp.magValue y) pieces) halfPiMag) with htop | htop
    · have hbt : b = halfPiMag := htop
      have h1 : Real.arctan (Fp.magValue a : ℚ) < Real.pi / 2 := Real.arctan_lt_pi_div_two _
      have h2 : Real.pi / 2 ≤ ((Fp.magValue halfPiMag : ℚ) : ℝ) := by
        have := Real.pi_lt_d20
        norm_num [Fp.magValue, Fp.units, halfPiMag]
        linarith
      rw [hbt] at hpos ⊢
      linarith
    · have hnot : ¬ ∃ y, y ≤ a ∧ lowerMid (b + 1) ≤ lowerSum (Fp.magValue y) pieces :=
        Nat.findGreatest_is_greatest (Nat.lt_succ_self _) htop
      push Not at hnot
      have h1 : ((lowerSum (Fp.magValue a) pieces : ℚ) : ℝ) < (lowerMid (b + 1) : ℚ) := by
        exact_mod_cast hnot a le_rfl
      have h2 := (lowerSum_bounds _ (magValue_nonneg a) pieces pieces_pos).2
      have h3 : ((Fp.magValue a : ℚ) : ℝ) / (pieces : ℝ) ≤ 1 / 2 / 2 ^ 149 := by
        have : ((Fp.magValue a : ℚ) : ℝ) ≤ 2 ^ 128 := by exact_mod_cast magValue_finite_lt ha
        rw [div_le_iff₀ (by exact_mod_cast pieces_pos)]
        refine this.trans ?_
        norm_num [pieces]
      have h4 : ((lowerMid (b + 1) : ℚ) : ℝ) = (Fp.magValue b : ℝ) + (Fp.ulpUnits b : ℝ) / 2 ^ 149 / 2 := by
        simp only [lowerMid, Nat.add_sub_cancel, magValue_succ]; push_cast; ring
      have h5 : (1 : ℝ) / 2 / 2 ^ 149 ≤ (Fp.ulpUnits b : ℝ) / 2 ^ 149 / 2 := by
        rw [div_right_comm]; gcongr
      linarith
  · linarith

/-- The arctangents R165 admits, on positive finite magnitudes. The default of `mag` only shows that there is one. -/
structure AtanFn where
  mag : Nat → Nat := someAtan
  monotone : AtanMonotone mag := by exact someAtan_monotone
  accurate : AtanAccurate mag := by exact someAtan_accurate
  deriving Inhabited

end Sys2Proof.Config
end

