-- ==== Sys2Proof/Config.lean ====
section
/-! DEFINITION. What an implementation fixes (00_scope.md R7) and the free values. `Cfg` is "one configuration record,
fixed at construction"; the arctangent and the bits of a NaN are opaque constants, of which nothing can be proved but
what their types say. -/

namespace Sys2Proof

/-- The floating-point operations whose NaN results the spec leaves open (00_scope.md R13; log 8). -/
inductive FloatOp where
  | add
  | sub
  | mul
  | div
  | atan
  deriving DecidableEq, Repr

namespace Config

/-- FREE VALUE (log 8): the sign and the fraction of the NaN an operation gives for these operands. The spec says "NaN"
(43_discriminator.md R166) and that every primitive is a total function of its operands alone (00_scope.md R13). -/
opaque nanBits : FloatOp → Sample → Sample → BitVec 32

/-- FREE VALUE (log 9): the configured arctangent on positive finite magnitudes, "of which a model may assume only these
named properties" (43_discriminator.md R165): the fields of `AtanFn`. -/
opaque atan : AtanFn

end Config

/-- The parameters of one FIR instance (00_scope.md R7, 10_state.md R28): the tap count `N[f]`, the coefficients `c[f]`
(`c[f][0]` multiplies the newest input) and the normalized cutoff `fc[f]`, which no rule reads. -/
structure FirCfg where
  taps : Nat
  coef : List Sample
  cutoff : Sample
  deriving DecidableEq, Repr

/-- The parameters of one ring buffer: `CAP[rb]` and `PRE[rb]` (00_scope.md R7). -/
structure RingCfg where
  cap : Nat
  pre : Nat
  deriving DecidableEq, Repr

/-- The configuration record `Cfg` of 00_scope.md R7. `FMT` and `Num` are fixed (binary32, IEEE 754, D3 and D4) and
written out in Machine/FloatBits.lean and Machine/Float.lean. -/
structure Cfg where
  firI : FirCfg
  firQ : FirCfg
  firO : FirCfg
  /-- `L`, the latency target in samples -/
  latency : Nat
  ringIn : RingCfg
  ringOut : RingCfg
  /-- `K`, the modulation-index constant (log 10). `GAIN` is formed from it: `Cfg.gain` in WellFormed.lean. -/
  k : Sample
  /-- `T_IDLE` in microseconds; "timing only, no rule of the state reads it" -/
  idleWait : Nat
  /-- `Fs` in hertz; "no rule reads it" -/
  sampleRate : Nat
  deriving DecidableEq, Repr

/-- `CAP = 2 * L` and `PRE = L`, for both buffers (00_scope.md R7; 90_conflicts.md C1). -/
def RingCfg.ofLatency (l : Nat) : RingCfg := ⟨2 * l, l⟩

def Cfg.fir (c : Cfg) : FirId → FirCfg
  | .i => c.firI
  | .q => c.firQ
  | .o => c.firO

def Cfg.ring (c : Cfg) : RingId → RingCfg
  | .ingress => c.ringIn
  | .egress => c.ringOut

namespace Config

/-- The configuration State.reset carries. DESIGN CHOICE (log 2): `N`, `c`, `L`, `fc`, `T_IDLE` and `Fs` are OPEN; the
filters are those of program P4 and `L` that of program P1 (95_test_vectors.md), `K` its reference value 0.1. -/
def reference : Cfg where
  firI := ⟨3, [0x3F000000#32, 0x3F000000#32, 0#32], posZero⟩
  firQ := ⟨3, [0x3F000000#32, 0x3F000000#32, 0#32], posZero⟩
  firO := ⟨1, [0x3F800000#32], posZero⟩
  latency := 2
  ringIn := .ofLatency 2
  ringOut := .ofLatency 2
  k := 0x3DCCCCCD#32
  idleWait := 0
  sampleRate := 0

end Config

end Sys2Proof
end

