-- ==== Sys2Proof/Machine/Float.lean ====
section
/-! DEFINITION. The constant `GAIN` and the floating-point primitives of 00_scope.md R13: IEEE 754 binary32 operations rounded to nearest, ties to
even, "each rounded separately (no fused multiply-add, no wider intermediate)", subnormals kept (D4), no flags or traps
(43_discriminator.md R166). The exact result is a quotient of whole numbers of units of `2^-149` and is rounded once. -/

namespace Sys2Proof.Fp

/-- The quotient `p / q` rounded to a whole number, ties to even. -/
def divRNE (p q : Nat) : Nat :=
  let m := p / q
  let r := p % q
  if 2 * r < q then m
  else if q < 2 * r then m + 1
  else if m % 2 = 0 then m else m + 1

/-- The number of low bits a magnitude of `k` whole units loses when 24 significant bits are kept. -/
def excessBits (k : Nat) : Nat := Nat.log2 k - 23

/-- `RN` (00_scope.md R13) on a magnitude: the magnitude bits of `p / q` units of `2^-149`, rounded to nearest, ties to
even; infinity where the rounded value is out of range. -/
def roundMag (p q : Nat) : Nat :=
  let sh := excessBits (p / q)
  min (sh * 2 ^ 23 + divRNE p (q * 2 ^ sh)) infMag

/-- The NaN with the free bits `b`: exponent field 255 and a fraction that is not zero; sign and fraction are free (log 8). -/
def nanOf (b : BitVec 32) : Sample :=
  let y := b ||| 0x7F800000#32
  if isNaN y then y else y ||| 0x00400000#32

/-- The NaN an operation gives: free bits that depend on the operation and its operands alone (00_scope.md R13). -/
def nanResult (op : FloatOp) (a b : Sample) : Sample := nanOf (Config.nanBits op a b)

/-- `fneg(a)` "inverts the sign bit and changes nothing else" (00_scope.md R13). -/
def fneg (a : Sample) : Sample := a ^^^ 0x80000000#32

/-- An exact sum of `n` units, rounded; `zeroSign` is the sign of a sum that is exactly zero. -/
def roundSum (zeroSign : Bool) (n : Int) : Sample :=
  if n = 0 then ofSignMag zeroSign 0 else ofSignMag (decide (n < 0)) (roundMag n.natAbs 1)

/-- IEEE 754 addition of operands that are not NaNs, as part of operation `op` on `x`, `y`: infinities of unlike sign are
invalid; an exact zero sum is `+0` unless both operands have the sign bit set. -/
def addCore (op : FloatOp) (x y a b : Sample) : Sample :=
  if isInf a then (if isInf b && signBit a != signBit b then nanResult op x y else a)
  else if isInf b then b
  else roundSum (signBit a && signBit b) (intUnits a + intUnits b)

/-- `fadd(a,b)` (00_scope.md R13). -/
def fadd (a b : Sample) : Sample :=
  if isNaN a || isNaN b then nanResult .add a b else addCore .add a b a b

/-- `fsub(a,b)` (00_scope.md R13): the sum of `a` and the negated `b`. -/
def fsub (a b : Sample) : Sample :=
  if isNaN a || isNaN b then nanResult .sub a b else addCore .sub a b a (fneg b)

/-- `fmul(a,b)` (00_scope.md R13). Zero times infinity is invalid. -/
def fmul (a b : Sample) : Sample :=
  let s := signBit a != signBit b
  if isNaN a || isNaN b then nanResult .mul a b
  else if isInf a || isInf b then
    (if isZero a || isZero b then nanResult .mul a b else ofSignMag s infMag)
  else ofSignMag s (roundMag (units (magBits a) * units (magBits b)) (2 ^ 149))

/-- `fdiv(a,b)` (00_scope.md R13). Zero by zero and infinity by infinity are invalid; a finite value other than zero by
zero is an infinity. -/
def fdiv (a b : Sample) : Sample :=
  let s := signBit a != signBit b
  if isNaN a || isNaN b then nanResult .div a b
  else if isInf a then (if isInf b then nanResult .div a b else ofSignMag s infMag)
  else if isInf b then ofSignMag s 0
  else if isZero b then (if isZero a then nanResult .div a b else ofSignMag s infMag)
  else ofSignMag s (roundMag (units (magBits a) * 2 ^ 149) (units (magBits b)))

/-- `Atan(a)`, the configured arctangent (43_discriminator.md R165): a zero gives itself, an infinity `RN(pi/2)` with its
sign, a NaN a NaN; it is odd; on the other values it is the open function `Config.atan` (log 9). -/
def fatan (a : Sample) : Sample :=
  if isNaN a then nanResult .atan a a
  else if isZero a then a
  else if isInf a then ofSignMag (signBit a) Config.halfPiMag
  else ofSignMag (signBit a) (Config.atan.mag (magBits a))

/-- `pi` to twenty decimals, as a numerator over `piDen`. DEDUCED (log 9): they decide the rounding of `1 / (2 * pi * K)` for
every `K`. -/
def piNum : Nat := 314159265358979323846

def piDen : Nat := 10 ^ 20

/-- `RN(1 / (2 * pi * K))`, "the real value rounded once" (43_discriminator.md R163), with the sign of `K`; infinity where it
is out of range. -/
def gainOf (k : Sample) : Sample :=
  ofSignMag (signBit k) (roundMag (2 ^ 149 * 2 ^ 149 * piDen) (2 * piNum * units (magBits k)))

end Sys2Proof.Fp
end

