-- ==== Sys2Proof/WellFormed.lean ====
section
/-! DEFINITION. `GAIN`, and `ConfigOK(Cfg)` of 00_scope.md R8, check by check. An instruction needs no check of its own: its only
operands are data words and "every 32-bit pattern is a legal operand" (30_encoding.md R96), which their type says. -/

namespace Sys2Proof

/-- `GAIN = RN(1 / (2 * pi * K))` (00_scope.md R7; 43_discriminator.md R162, R163): "a constant of the configuration", no
field of its own beside `K`. -/
def Cfg.gain (c : Cfg) : Sample := Fp.gainOf c.k

/-- "each `N[f]` is odd and at least 1" -/
def FirCfg.tapsOk (f : FirCfg) : Bool := decide (f.taps % 2 = 1) && decide (1 ≤ f.taps)

/-- "each `c[f]` has length `N[f]`" -/
def FirCfg.lengthOk (f : FirCfg) : Bool := decide (f.coef.length = f.taps)

/-- "every entry is a finite value of `FMT`" -/
def FirCfg.finiteOk (f : FirCfg) : Bool := f.coef.all Fp.isFinite

def FirCfg.ok (f : FirCfg) : Bool := f.tapsOk && f.lengthOk && f.finiteOk

/-- "for each ring buffer `rb`, `CAP[rb] >= 1` and `0 <= PRE[rb] <= CAP[rb]`" -/
def RingCfg.ok (r : RingCfg) : Bool := decide (1 ≤ r.cap) && decide (r.pre ≤ r.cap)

/-- `ConfigOK(Cfg)`, exactly as 00_scope.md R8 lists it. -/
def Cfg.ok (c : Cfg) : Bool :=
  c.firI.ok && c.firQ.ok && c.firO.ok && decide (1 ≤ c.latency) && c.ringIn.ok && c.ringOut.ok &&
    (Fp.isFinite c.k && !Fp.isZero c.k) && Fp.isFinite c.gain

end Sys2Proof
end

