-- ==== Sys2Proof/Machine/State.lean ====
section
/-! DEFINITION. The machine's state as plain data: the whole list of 10_state.md R20, the configuration it was built with
(log 1), and the model's own fields for the ports and the interleaving (log 3). -/

namespace Sys2Proof.Machine

/-- The agents (00_scope.md R14). -/
inductive Agent where
  | cap
  | proc
  | play
  | host
  deriving DecidableEq, Repr

/-- `SEQ`, the phase register (10_state.md R30). -/
inductive Phase where
  | ready
  | fetch
  | compute
  | emit
  | halted
  deriving DecidableEq, Repr

/-- A response (30_encoding.md R98, 00_scope.md R12), with the data words of an `OK`. -/
inductive Response where
  | ok (data : List Word)
  | rejected
  | empty
  | refused
  deriving DecidableEq, Repr

/-- A slot array: the slots something has written, with the Sample each holds, slot indices strictly rising
(10_state.md R21, 20_memory.md R60). A slot that is not listed has not been written since construction (log 7). -/
abbrev Slots := List (Nat × Sample)

/-- The canonical form of a slot array: strictly rising slot indices. -/
abbrev Slots.wf (m : Slots) : Prop := m.Pairwise (fun a b => a.1 < b.1)

/-- One ring buffer (10_state.md R21, R22, R24): slots, index registers, sticky flags. -/
structure Ring where
  slots : Slots
  head : Nat
  tail : Nat
  ovf : Bool
  unf : Bool
  deriving DecidableEq, Repr

/-- Why a step stops. -/
inductive Fault where
  /-- A pop read a slot that nothing has written since construction (10_state.md R36, 92_eei_decisions.md D35: "A model
  may hold none there and fault on a read"). Raised by `RB.POP IN`, `RB.POP OUT` and `LOOP.FETCH`. Safe: unreachable from
  reset (20_memory.md R79). -/
  | unwrittenSlot
  deriving DecidableEq, Repr

/-- Why an instruction has no meaning. -/
inductive Refusal where
  /-- The instruction named has no meaning in the model yet. Raised by a refused arm of `exec`; there is none. Safe. -/
  | notModelled (mnemonic : String)
  deriving DecidableEq, Repr

structure State where
  /-- MODEL'S OWN (log 1): the configuration `Cfg`, a parameter of every step (00_scope.md R7), written by none. -/
  cfg : Cfg
  /-- `IN` (10_state.md R21, R22, R24) -/
  inb : Ring
  /-- `OUT` -/
  outb : Ring
  /-- `QUAD` (R25) -/
  quad : BitVec 2
  /-- `PREV_RE` (R26) -/
  prevRe : Sample
  /-- `PREV_IM` (R26) -/
  prevIm : Sample
  /-- `w[I]`, newest first (R27) -/
  wI : List Sample
  /-- `w[Q]` (R27) -/
  wQ : List Sample
  /-- `w[O]` (R27) -/
  wO : List Sample
  /-- `S_HOLD` (R29) -/
  sHold : Sample
  /-- `A_HOLD` (R29) -/
  aHold : Sample
  /-- `SEQ` (R30) -/
  seq : Phase
  /-- `STOP` (R31) -/
  stop : Bool
  /-- MODEL'S OWN (log 3): bytes waiting on the capture port (30_encoding.md R100). -/
  capPort : List Byte
  /-- MODEL'S OWN (log 3): bytes waiting on the playback port. -/
  playPort : List Byte
  /-- MODEL'S OWN (log 3): bytes waiting on the host port. -/
  hostPort : List Byte
  /-- MODEL'S OWN (log 3): which agents move in the coming steps, the one whose turn it is first (20_memory.md R67). An agent
  that has moved is taken off: no "record of which agent issued the last operation" is kept (10_state.md R37). -/
  schedule : List Agent
  /-- MODEL'S OWN (log 3): the response of the latest step, if it gave one (30_encoding.md R98). -/
  reply : Option Response
  deriving DecidableEq, Repr

/-- The pre-filled slot array: `PRE` slots of `+0`, the others unwritten (10_state.md R36, 40_ring_buffer.md R115). -/
def Slots.prefilled (pre : Nat) : Slots := (List.range pre).map (fun j => (j, posZero))

/-- A ring buffer right after construction (10_state.md R36). -/
def Ring.construct (r : RingCfg) : Ring where
  slots := Slots.prefilled r.pre
  head := 0
  tail := r.pre
  ovf := false
  unf := false

/-- Every element of state at its reset value for the configuration `c` (10_state.md R36). `S_HOLD` and `A_HOLD` are
unspecified there: DESIGN CHOICE `+0` (log 6). The ports are empty and nothing is scheduled: DESIGN CHOICE (log 3). -/
def State.construct (c : Cfg) : State where
  cfg := c
  inb := .construct c.ringIn
  outb := .construct c.ringOut
  quad := 0
  prevRe := posZero
  prevIm := posZero
  wI := List.replicate c.firI.taps posZero
  wQ := List.replicate c.firQ.taps posZero
  wO := List.replicate c.firO.taps posZero
  sHold := posZero
  aHold := posZero
  seq := .ready
  stop := false
  capPort := []
  playPort := []
  hostPort := []
  schedule := []
  reply := none

/-- The machine right after `SYS.RESET` (construction), with the reference configuration (log 2). -/
def State.reset : State := .construct Config.reference

end Sys2Proof.Machine
end

