-- ==== Sys2Proof/Machine/Flags.lean ====
section
/-! DEFINITION. The sticky flags (10_state.md R24) and the `STATUS` view (R32). The block has no condition codes: no
arithmetic operation records anything. -/

namespace Sys2Proof.Machine

/-- `rb.OVF <- 1` (10_state.md R24). -/
def Ring.setOvf (r : Ring) : Ring := { r with ovf := true }

/-- `rb.UNF <- 1` (10_state.md R24). -/
def Ring.setUnf (r : Ring) : Ring := { r with unf := true }

/-- The number of a phase (10_state.md R30: `READY` = 0 to `HALTED` = 4, in 3 bits). -/
def Phase.code : Phase → BitVec 3
  | .ready => 0
  | .fetch => 1
  | .compute => 2
  | .emit => 3
  | .halted => 4

/-- `STATUS.RUN` (10_state.md R32): 0 in `READY`, 1 while the loop runs, 2 in `HALTED`, 3 never. -/
def Phase.run : Phase → BitVec 2
  | .ready => 0
  | .fetch => 1
  | .compute => 1
  | .emit => 1
  | .halted => 2

/-- `STATUS` (10_state.md R32): `RUN` in bits 1:0, `STOP` 2, `IN_OVF` 3, `IN_UNF` 4, `OUT_OVF` 5, `OUT_UNF` 6, bits 15:7
reserved, read as 0. -/
def State.status (s : State) : BitVec 16 :=
  0#9 ++ BitVec.ofBool s.outb.unf ++ BitVec.ofBool s.outb.ovf ++ BitVec.ofBool s.inb.unf ++ BitVec.ofBool s.inb.ovf ++
    BitVec.ofBool s.stop ++ s.seq.run

/-- The 3-bit response code (30_encoding.md R98). -/
def Response.code : Response → BitVec 3
  | .ok _ => 0
  | .rejected => 1
  | .empty => 2
  | .refused => 3

end Sys2Proof.Machine
end

