-- ==== Sys2Proof/Machine/Ops.lean ====
section
/-! DEFINITION. The shared operations over slots, ring buffers, datapath and ports. The block takes no exceptions and has
no handler and no return (60_exceptions.md R220): a condition is answered by a response, and a command that is turned away
by `State.answer .refused` (`guarded`). -/

namespace Sys2Proof.Machine

/-! Slots (00_scope.md R11, 20_memory.md R60, R61) -/

/-- `MemRead(rb, i)`: the Sample in a slot, none where nothing has written it. -/
def Slots.read : Slots → Nat → Option Sample
  | [], _ => none
  | (k, v) :: m, a => if a = k then some v else Slots.read m a

/-- `MemWrite(rb, i, v)`, keeping the slots in rising order. -/
def Slots.write : Slots → Nat → Sample → Slots
  | [], a, v => [(a, v)]
  | (k, w) :: m, a, v =>
    if a < k then (a, v) :: (k, w) :: m
    else if a = k then (a, v) :: m
    else (k, w) :: Slots.write m a v

/-! Ring buffers (10_state.md R22, R23; 20_memory.md R78; 40_ring_buffer.md) -/

/-- `(x + 1) mod (2 * CAP)` (20_memory.md R78 (a)). -/
def nextIndex (cap x : Nat) : Nat := (x + 1) % (2 * cap)

/-- `x mod CAP`, the slot an index addresses (10_state.md R22, 20_memory.md R61, R78 (c)). -/
def slotOf (cap x : Nat) : Nat := x % cap

/-- `occ(rb) = (rb.tail - rb.head) mod (2 * CAP[rb])`, a subtraction of integers (10_state.md R23, 20_memory.md R78 (b)). -/
def Ring.occ (cap : Nat) (r : Ring) : Nat := (((r.tail : Int) - r.head) % (2 * cap : Int)).toNat

/-- Empty "exactly when `rb.head == rb.tail`" (10_state.md R23). -/
def Ring.isEmpty (r : Ring) : Bool := decide (r.head = r.tail)

/-- `RB.PUSH` on one buffer, and whether it was accepted (40_ring_buffer.md R111). -/
def Ring.push (cap : Nat) (r : Ring) (v : Sample) : Ring × Bool :=
  if r.occ cap = cap then (r.setOvf, false)
  else ({ r with slots := r.slots.write (slotOf cap r.tail) v, tail := nextIndex cap r.tail }, true)

/-- `RB.POP` on one buffer, and the Sample it gives, none where the buffer is empty (40_ring_buffer.md R112). -/
def Ring.pop (cap : Nat) (r : Ring) : Except Fault (Ring × Option Sample) :=
  if r.isEmpty then .ok (r.setUnf, none)
  else
    match r.slots.read (slotOf cap r.head) with
    | some v => .ok ({ r with head := nextIndex cap r.head }, some v)
    | none => .error .unwrittenSlot

/-! Registers by instance -/

def State.ring (s : State) : RingId → Ring
  | .ingress => s.inb
  | .egress => s.outb

def State.setRing (s : State) (rb : RingId) (r : Ring) : State :=
  match rb with
  | .ingress => { s with inb := r }
  | .egress => { s with outb := r }

def State.cap (s : State) (rb : RingId) : Nat := (s.cfg.ring rb).cap

/-- `w[f]` (10_state.md R27). -/
def State.hist (s : State) : FirId → List Sample
  | .i => s.wI
  | .q => s.wQ
  | .o => s.wO

def State.setHist (s : State) (f : FirId) (w : List Sample) : State :=
  match f with
  | .i => { s with wI := w }
  | .q => { s with wQ := w }
  | .o => { s with wO := w }

/-! Datapath step functions (41, 42, 43) -/

/-- `Mix(q, s)`, the four rows of 41_downconverter.md R131, which are `s * cos(pi*q/2)` and `-s * sin(pi*q/2)` (R134): `0` is the constant `+0`, `-s` is `fneg(s)`. -/
def mix (quad : BitVec 2) (x : Sample) : Sample × Sample :=
  match quad.toNat with
  | 0 => (x, posZero)
  | 1 => (posZero, Fp.fneg x)
  | 2 => (Fp.fneg x, posZero)
  | _ => (posZero, x)

/-- `Mix` and the quadrant advance "after producing (I, Q)" (41_downconverter.md R130, R132). -/
def State.mixStep (s : State) (x : Sample) : State × (Sample × Sample) :=
  ({ s with quad := s.quad + 1 }, mix s.quad x)

/-- The shift of 42_fir_filter.md R140: the new input in front, the oldest value dropped. -/
def firShift (n : Nat) (w : List Sample) (x : Sample) : List Sample := (x :: w).take n

/-- The sum of 42_fir_filter.md R140: from `+0`, ascending `k`, "product rounded, then sum rounded". -/
def firSum (coef w : List Sample) : Sample :=
  (coef.zip w).foldl (fun acc p => Fp.fadd acc (Fp.fmul p.1 p.2)) posZero

/-- `FirStep(f, x)` (42_fir_filter.md R140). -/
def State.firStep (s : State) (f : FirId) (x : Sample) : State × Sample :=
  let w := firShift (s.cfg.fir f).taps (s.hist f) x
  (s.setHist f w, firSum (s.cfg.fir f).coef w)

/-- `cross = re1*im0 - im1*re0` (43_discriminator.md R160). -/
def discCross (re1 im1 re0 im0 : Sample) : Sample := Fp.fsub (Fp.fmul re1 im0) (Fp.fmul im1 re0)

/-- `dot = re1*re0 + im1*im0` (43_discriminator.md R160). -/
def discDot (re1 im1 re0 im0 : Sample) : Sample := Fp.fadd (Fp.fmul re1 re0) (Fp.fmul im1 im0)

/-- `d` of 43_discriminator.md R160: the fallback where `dot` is a zero, else the division. -/
def discOut (gain cross dot : Sample) : Sample :=
  if Fp.isZero dot then Fp.fmul gain (Fp.fatan cross)
  else Fp.fmul gain (Fp.fatan (Fp.fdiv cross dot))

/-- `DiscStep(re0, im0)`: reads the previous sample first, writes it last (43_discriminator.md R160, R164). -/
def State.discStep (s : State) (re0 im0 : Sample) : State × Sample :=
  ({ s with prevRe := re0, prevIm := im0 },
    discOut s.cfg.gain (discCross s.prevRe s.prevIm re0 im0) (discDot s.prevRe s.prevIm re0 im0))

/-- `Pipe(s)`, the per-sample datapath (44_processing_loop.md R184; `PIPE.SAMPLE` of 30_encoding.md R102). -/
def State.pipe (s : State) (x : Sample) : State × Sample :=
  let (s1, i, q) := s.mixStep x
  let (s2, fi) := s1.firStep .i i
  let (s3, fq) := s2.firStep .q q
  let (s4, d) := s3.discStep fi fq
  s4.firStep .o d

/-! Responses and admission (30_encoding.md R98 to R100) -/

/-- Every command "is answered by one response" (30_encoding.md R98). -/
def State.answer (s : State) (r : Response) : State := { s with reply := some r }

/-- "The steps of the sequencer produce no response" (30_encoding.md R98). -/
def State.noAnswer (s : State) : State := { s with reply := none }

/-- The admission table of 30_encoding.md R100: which operations an agent may issue in a phase. -/
def admits (a : Agent) (ph : Phase) : Instr → Bool
  | .sysReset => a == .host
  | .sysStart => a == .host
  | .sysStop => a == .host
  | .sysStatus => a == .host
  | .rbPushIn _ => a == .cap
  | .rbPopIn => a == .host && ph == .ready
  | .rbEmptyIn => a == .cap || (a == .host && ph == .ready)
  | .rbPushOut _ => a == .host && ph == .ready
  | .rbPopOut => a == .play
  | .rbEmptyOut => a == .play || (a == .host && ph == .ready)
  | .ddcMix _ => a == .host && ph == .ready
  | .firStepI _ => a == .host && ph == .ready
  | .firStepQ _ => a == .host && ph == .ready
  | .firStepO _ => a == .host && ph == .ready
  | .discStep _ _ => a == .host && ph == .ready
  | .loopFetch => a == .proc && ph == .fetch
  | .loopCompute => a == .proc && ph == .compute
  | .loopEmit => a == .proc && ph == .emit

/-- The agent whose turn it is, the issuer of the operation being performed: the head of the schedule; with nothing
scheduled, PROC (00_scope.md R14, 30_encoding.md R100; log 4). -/
def State.issuer (s : State) : Agent := s.schedule.headD .proc

/-- "Admission is checked before anything else" (60_exceptions.md R222): an operation its issuer may not perform is
answered `REFUSED` and changes no state (30_encoding.md R100, 60_exceptions.md R226). -/
def guarded (i : Instr) (s : State) (k : Host.Outcome State Fault Refusal) : Host.Outcome State Fault Refusal :=
  if admits s.issuer s.seq i then k else .next (s.answer .refused)

/-- A push that is answered (40_ring_buffer.md R111). -/
def State.pushAnswered (s : State) (rb : RingId) (v : Sample) : State :=
  let p := (s.ring rb).push (s.cap rb) v
  (s.setRing rb p.1).answer (if p.2 then .ok [] else .rejected)

/-- A pop that is answered (40_ring_buffer.md R112). -/
def State.popAnswered (s : State) (rb : RingId) : Host.Outcome State Fault Refusal :=
  match (s.ring rb).pop (s.cap rb) with
  | .error e => .fault e
  | .ok (r, none) => .next ((s.setRing rb r).answer .empty)
  | .ok (r, some v) => .next ((s.setRing rb r).answer (.ok [v]))

/-- The Boolean of `RB.EMPTY` "in bit 0 of one data word, the other bits zero" (40_ring_buffer.md R113). -/
def boolWord (b : Bool) : Word := if b then 1#32 else 0#32

/-- `RB.EMPTY`, answered (40_ring_buffer.md R113). -/
def State.emptyAnswered (s : State) (rb : RingId) : State := s.answer (.ok [boolWord (s.ring rb).isEmpty])

/-- `FIR.STEP`, answered (42_fir_filter.md R141). -/
def State.firAnswered (s : State) (f : FirId) (x : Sample) : State :=
  (s.firStep f x).1.answer (.ok [(s.firStep f x).2])

/-- Every element of the block's state at its reset value (45_system.md R200, 10_state.md R36); the configuration and the
model's own fields stay (log 1, log 15). -/
def State.reconstruct (s : State) : State :=
  { State.construct s.cfg with
    capPort := s.capPort, playPort := s.playPort, hostPort := s.hostPort, schedule := s.schedule, reply := s.reply }

/-! Whose step comes next, and which operation it is (20_memory.md R67, 44_processing_loop.md R186) -/

/-- The LOOP step of a phase, none in `READY` and `HALTED` (44_processing_loop.md R186). -/
def Phase.loopStep : Phase → Option Instr
  | .ready => none
  | .fetch => some .loopFetch
  | .compute => some .loopCompute
  | .emit => some .loopEmit
  | .halted => none

/-- The phase a LOOP step belongs to (10_state.md R30, 44_processing_loop.md R180). -/
def loopPhase : Instr → Option Phase
  | .loopFetch => some .fetch
  | .loopCompute => some .compute
  | .loopEmit => some .emit
  | _ => none

/-- The turn is over: the agent that has moved leaves the schedule, and nothing records it (10_state.md R37). -/
def State.endTurn (s : State) : State := { s with schedule := s.schedule.tail }

/-- The end of the turn in which an operation gave this outcome. -/
def endStep : Host.Outcome State Fault Refusal → Host.Outcome State Fault Refusal
  | .next t => .next t.endTurn
  | .fault e => .fault e
  | .refused r => .refused r

/-- The bytes waiting on an agent's port; PROC "is internal and has no port" (30_encoding.md R100). -/
def State.port (s : State) : Agent → List Byte
  | .cap => s.capPort
  | .play => s.playPort
  | .host => s.hostPort
  | .proc => []

def State.setPort (s : State) (a : Agent) (bs : List Byte) : State :=
  match a with
  | .cap => { s with capPort := bs }
  | .play => { s with playPort := bs }
  | .host => { s with hostPort := bs }
  | .proc => s

/-- What the agent whose turn it is does. -/
inductive Fetched where
  /-- it performs this operation, in this state -/
  | command (i : Instr) (t : State)
  /-- its port holds a reserved command byte, now consumed (30_encoding.md R99) -/
  | reserved (t : State)
  /-- it has no operation to perform: PROC outside its running phases, or no whole command on its port (log 4, log 5) -/
  | nothing (t : State)

/-- The next operation: PROC's is the LOOP step of its phase, an external agent's stands at the front of its port. -/
def State.fetch (s : State) : Fetched :=
  let t := s.noAnswer
  match s.issuer with
  | .proc =>
    match t.seq.loopStep with
    | some i => .command i t
    | none => .nothing t
  | a =>
    match decode (t.port a) with
    | .instr i rest => .command i (t.setPort a rest)
    | .reserved _ rest => .reserved (t.setPort a rest)
    | .incomplete => .nothing t

/-- The external agent that may issue an operation, in READY for the units; PROC for its own steps (30_encoding.md R92, R100). -/
def usualAgent : Instr → Agent
  | .rbPushIn _ => .cap
  | .rbEmptyIn => .cap
  | .rbPopOut => .play
  | .rbEmptyOut => .play
  | .loopFetch => .proc
  | .loopCompute => .proc
  | .loopEmit => .proc
  | _ => .host

/-- The state in which agent `a` moves next and finds these bytes at the front of its port. -/
def State.present (s : State) (a : Agent) (bs : List Byte) : State :=
  { s.setPort a (bs ++ s.port a) with schedule := a :: s.schedule }

/-- The state in which the command of these bytes is performed next: on the port of an agent that may issue it, or, for a
LOOP step, by PROC in the phase that step belongs to (log 12). -/
def State.place (s : State) (bs : List Byte) : State :=
  match decode bs with
  | .instr i _ =>
    match loopPhase i with
    | some ph => { s with schedule := .proc :: s.schedule, seq := ph }
    | none => s.present (usualAgent i) bs
  | _ => s.present .host bs

end Sys2Proof.Machine
end

