-- ==== Sys2Proof/Machine/Discriminator.lean ====
section
/-! DEFINITION. The FM Discriminator operation (43_discriminator.md). -/

namespace Sys2Proof.Machine

/-- `DISC.STEP re0 im0` (43_discriminator.md R161): "the operation cannot fail". -/
def execDiscStep (re0 im0 : Sample) (s : State) : Host.Outcome State Fault Refusal :=
  guarded (.discStep re0 im0) s (.next ((s.discStep re0 im0).1.answer (.ok [(s.discStep re0 im0).2])))

end Sys2Proof.Machine
end

