-- ==== Sys2Proof/Machine/Downconverter.lean ====
section
/-! DEFINITION. The Downconverter operation (41_downconverter.md). -/

namespace Sys2Proof.Machine

/-- `DDC.MIX x` (41_downconverter.md R130): the pair from `QUAD` before the advance, `I` then `Q` in the answer. -/
def execDdcMix (x : Sample) (s : State) : Host.Outcome State Fault Refusal :=
  guarded (.ddcMix x) s (.next ((s.mixStep x).1.answer (.ok [(s.mixStep x).2.1, (s.mixStep x).2.2])))

/-- The state after consuming the samples `xs` in order, by `Mix` and its advance (41_downconverter.md R135). -/
def State.mixAll (s : State) : List Sample → State
  | [] => s
  | x :: xs => (s.mixStep x).1.mixAll xs

end Sys2Proof.Machine
end

