-- ==== Sys2Proof/Machine/FirFilter.lean ====
section
/-! DEFINITION. The FIR Filter operations (42_fir_filter.md) and the pseudo-operation `FIR.PROCESS`. -/

namespace Sys2Proof.Machine

/-- `FIR.STEP I x` (42_fir_filter.md R141). -/
def execFirStepI (x : Sample) (s : State) : Host.Outcome State Fault Refusal :=
  guarded (.firStepI x) s (.next (s.firAnswered .i x))

/-- `FIR.STEP Q x` (42_fir_filter.md R141). -/
def execFirStepQ (x : Sample) (s : State) : Host.Outcome State Fault Refusal :=
  guarded (.firStepQ x) s (.next (s.firAnswered .q x))

/-- `FIR.STEP O x` (42_fir_filter.md R141). -/
def execFirStepO (x : Sample) (s : State) : Host.Outcome State Fault Refusal :=
  guarded (.firStepO x) s (.next (s.firAnswered .o x))

/-- `FIR.PROCESS f [x0, ..., xm-1]` (42_fir_filter.md R142, 30_encoding.md R102): the steps in order and their results. -/
def State.firProcess (s : State) (f : FirId) : List Sample → State × List Sample
  | [] => (s, [])
  | x :: xs => (((s.firStep f x).1.firProcess f xs).1, (s.firStep f x).2 :: ((s.firStep f x).1.firProcess f xs).2)

end Sys2Proof.Machine
end

