-- ==== Sys2Proof/Machine/ProcessingLoop.lean ====
section
/-! DEFINITION. The sequencer's own steps (44_processing_loop.md). They give no response (30_encoding.md R98). -/

namespace Sys2Proof.Machine

/-- `LOOP.FETCH` (44_processing_loop.md R181): stop first, then the emptiness test, then one pop. The idle branch changes
nothing (R185). The pop cannot be `EMPTY` there; that arm of the match is never taken. -/
def execLoopFetch (s : State) : Host.Outcome State Fault Refusal :=
  guarded .loopFetch s
    (if s.stop then .next { s.noAnswer with seq := .halted }
    else if s.inb.isEmpty then .next s.noAnswer
    else
      match s.inb.pop (s.cap .ingress) with
      | .error e => .fault e
      | .ok (_, none) => .next s.noAnswer
      | .ok (r, some v) => .next { s.noAnswer with inb := r, sHold := v, seq := .compute })

/-- `LOOP.COMPUTE` (44_processing_loop.md R182): `A_HOLD <- Pipe(S_HOLD)`, `SEQ <- EMIT`. -/
def execLoopCompute (s : State) : Host.Outcome State Fault Refusal :=
  guarded .loopCompute s
    (.next { (s.pipe s.sHold).1.noAnswer with aHold := (s.pipe s.sHold).2, seq := .emit })

/-- `LOOP.EMIT` (44_processing_loop.md R183): the push's own result is dropped, "`SEQ <- FETCH` in both cases". -/
def execLoopEmit (s : State) : Host.Outcome State Fault Refusal :=
  guarded .loopEmit s
    (.next { s.noAnswer with outb := (s.outb.push (s.cap .egress) s.aHold).1, seq := .fetch })

end Sys2Proof.Machine
end

