-- ==== Sys2Proof/Machine/RingBuffer.lean ====
section
/-! DEFINITION. The Ring Buffer operations (40_ring_buffer.md). -/

namespace Sys2Proof.Machine

/-- `RB.PUSH IN v` (40_ring_buffer.md R111). -/
def execRbPushIn (v : Sample) (s : State) : Host.Outcome State Fault Refusal :=
  guarded (.rbPushIn v) s (.next (s.pushAnswered .ingress v))

/-- `RB.POP IN` (40_ring_buffer.md R112). -/
def execRbPopIn (s : State) : Host.Outcome State Fault Refusal :=
  guarded .rbPopIn s (s.popAnswered .ingress)

/-- `RB.EMPTY IN` (40_ring_buffer.md R113). -/
def execRbEmptyIn (s : State) : Host.Outcome State Fault Refusal :=
  guarded .rbEmptyIn s (.next (s.emptyAnswered .ingress))

/-- `RB.PUSH OUT v` (40_ring_buffer.md R111). -/
def execRbPushOut (v : Sample) (s : State) : Host.Outcome State Fault Refusal :=
  guarded (.rbPushOut v) s (.next (s.pushAnswered .egress v))

/-- `RB.POP OUT` (40_ring_buffer.md R112). -/
def execRbPopOut (s : State) : Host.Outcome State Fault Refusal :=
  guarded .rbPopOut s (s.popAnswered .egress)

/-- `RB.EMPTY OUT` (40_ring_buffer.md R113). -/
def execRbEmptyOut (s : State) : Host.Outcome State Fault Refusal :=
  guarded .rbEmptyOut s (.next (s.emptyAnswered .egress))

/-- `RB.DRAIN rb` (30_encoding.md R102): "`RB.POP rb` repeated until the response is `EMPTY`", at most `n` pops; the final
ring and the Samples popped. -/
def Ring.drain (cap : Nat) : Nat → Ring → Except Fault (Ring × List Sample)
  | 0, r => .ok (r, [])
  | n + 1, r =>
    match r.pop cap with
    | .error e => .error e
    | .ok (r', none) => .ok (r', [])
    | .ok (r', some v) =>
      match Ring.drain cap n r' with
      | .error e => .error e
      | .ok (r'', vs) => .ok (r'', v :: vs)

end Sys2Proof.Machine
end

