-- ==== Sys2Proof/Machine/System.lean ====
section
/-! DEFINITION. The system operations of HOST (45_system.md). -/

namespace Sys2Proof.Machine

/-- `SYS.RESET` (45_system.md R200, R202): construction, `REFUSED` where the configuration is not well formed. -/
def execSysReset (s : State) : Host.Outcome State Fault Refusal :=
  guarded .sysReset s (.next (if s.cfg.ok then s.reconstruct.answer (.ok []) else s.answer .refused))

/-- `SYS.START` (45_system.md R201): `READY` to `FETCH`, `REFUSED` in any other phase. -/
def execSysStart (s : State) : Host.Outcome State Fault Refusal :=
  guarded .sysStart s
    (.next (if s.seq = .ready then { s with seq := .fetch }.answer (.ok []) else s.answer .refused))

/-- `SYS.STOP` (45_system.md R203): sets `STOP`, "does not itself change `SEQ`". -/
def execSysStop (s : State) : Host.Outcome State Fault Refusal :=
  guarded .sysStop s (.next ({ s with stop := true }.answer (.ok [])))

/-- `SYS.STATUS` (45_system.md R204): answers `zext_32(STATUS)` and writes nothing. -/
def execSysStatus (s : State) : Host.Outcome State Fault Refusal :=
  guarded .sysStatus s (.next (s.answer (.ok [s.status.zeroExtend 32])))

end Sys2Proof.Machine
end

