-- ==== Sys2Proof/Machine/Dispatch.lean ====
section
/-! DEFINITION. The dispatch: one meaning per operation of 30_encoding.md R92. -/

namespace Sys2Proof.Machine

def exec (i : Instr) (s : State) : Host.Outcome State Fault Refusal :=
  match i with
  | .sysReset => Sys2Proof.Machine.execSysReset s
  | .sysStart => Sys2Proof.Machine.execSysStart s
  | .sysStop => Sys2Proof.Machine.execSysStop s
  | .sysStatus => Sys2Proof.Machine.execSysStatus s
  | .rbPushIn v => Sys2Proof.Machine.execRbPushIn v s
  | .rbPopIn => Sys2Proof.Machine.execRbPopIn s
  | .rbEmptyIn => Sys2Proof.Machine.execRbEmptyIn s
  | .rbPushOut v => Sys2Proof.Machine.execRbPushOut v s
  | .rbPopOut => Sys2Proof.Machine.execRbPopOut s
  | .rbEmptyOut => Sys2Proof.Machine.execRbEmptyOut s
  | .ddcMix x => Sys2Proof.Machine.execDdcMix x s
  | .firStepI x => Sys2Proof.Machine.execFirStepI x s
  | .firStepQ x => Sys2Proof.Machine.execFirStepQ x s
  | .firStepO x => Sys2Proof.Machine.execFirStepO x s
  | .discStep re0 im0 => Sys2Proof.Machine.execDiscStep re0 im0 s
  | .loopFetch => Sys2Proof.Machine.execLoopFetch s
  | .loopCompute => Sys2Proof.Machine.execLoopCompute s
  | .loopEmit => Sys2Proof.Machine.execLoopEmit s

end Sys2Proof.Machine
end

