-- ==== Sys2Proof/Machine/Step.lean ====
section
/-! DEFINITION. One step of one agent (00_scope.md R14, 20_memory.md R67). -/

namespace Sys2Proof.Machine

/-- The agent whose turn it is performs its operation and its turn ends; a reserved command byte is answered `REFUSED` (30_encoding.md R99);
an agent with no operation to perform lets its turn pass (log 4). -/
def step (s : State) : Host.Outcome State Fault Refusal :=
  match s.fetch with
  | .command i t => endStep (exec i t)
  | .reserved t => .next (t.answer .refused).endTurn
  | .nothing t => .next t.endTurn

/-- `s` with the command of this opcode-table word placed where `step` finds its next operation (log 11, log 12). -/
def State.withFetchWord (s : State) (nbits w : Nat) : State := s.place (tableBytes nbits w)

end Sys2Proof.Machine
end

