-- ==== Sys2Proof/Safety.lean ====
section
/-! DEFINITION. The terms claims are stated in: the contents of a ring buffer, the invariant of the reachable states, the
admission table by command bytes, the legal phase changes, and correct rounding. No step of the machine uses them. -/

namespace Sys2Proof.Machine

/-- `Contents(rb)`, oldest first (10_state.md R23); a slot nothing has written would stand as none. -/
def Ring.contents (cap : Nat) (r : Ring) : List (Option Sample) :=
  (List.range (r.occ cap)).map (fun j => r.slots.read (slotOf cap (r.head + j)))

/-- What holds of a ring buffer in every reachable state: 40_ring_buffer.md R114 on the indices, canonical slots inside the
address space (20_memory.md R60), and every slot of the contents written (R79). -/
structure Ring.Inv (cap : Nat) (r : Ring) : Prop where
  canonical : r.slots.wf
  inSpace : ∀ p ∈ r.slots, p.1 < cap
  head_lt : r.head < 2 * cap
  tail_lt : r.tail < 2 * cap
  occ_le : r.occ cap ≤ cap
  written : ∀ j, j < r.occ cap → (r.slots.read (slotOf cap (r.head + j))).isSome

/-- What holds of the machine in every state reachable from reset: a well-formed configuration (00_scope.md R8), both ring
buffers' invariants (40_ring_buffer.md R114), histories of their tap count's length (10_state.md R27). -/
structure State.Inv (s : State) : Prop where
  cfgOk : s.cfg.ok = true
  ingress : Ring.Inv s.cfg.ringIn.cap s.inb
  egress : Ring.Inv s.cfg.ringOut.cap s.outb
  lenI : s.wI.length = s.cfg.firI.taps
  lenQ : s.wQ.length = s.cfg.firQ.taps
  lenO : s.wO.length = s.cfg.firO.taps

/-- The eighteen command bytes that are operations (30_encoding.md R92, the hexadecimal column). -/
def operationBytes : List Byte :=
  [0x00#8, 0x01#8, 0x02#8, 0x03#8, 0x20#8, 0x21#8, 0x22#8, 0x28#8, 0x29#8, 0x2A#8, 0x40#8, 0x60#8, 0x68#8, 0x70#8,
    0x80#8, 0xA0#8, 0xA1#8, 0xA2#8]

/-- The command bytes an agent may issue in a phase, row by row as 30_encoding.md R100 lists them. -/
def admittedBytes : Agent → Phase → List Byte
  | .cap, _ => [0x20#8, 0x22#8]
  | .play, _ => [0x29#8, 0x2A#8]
  | .host, .ready =>
    [0x00#8, 0x01#8, 0x02#8, 0x03#8, 0x21#8, 0x22#8, 0x28#8, 0x2A#8, 0x40#8, 0x60#8, 0x68#8, 0x70#8, 0x80#8]
  | .host, _ => [0x00#8, 0x01#8, 0x02#8, 0x03#8]
  | .proc, .fetch => [0xA0#8]
  | .proc, .compute => [0xA1#8]
  | .proc, .emit => [0xA2#8]
  | .proc, _ => []

/-- The phase changes of 10_state.md R30, "exactly": from, to, and the operation that makes the change. -/
def PhaseChange : Phase → Phase → Instr → Prop
  | .ready, .fetch, i => i = .sysStart
  | .fetch, .compute, i => i = .loopFetch
  | .fetch, .halted, i => i = .loopFetch
  | .compute, .emit, i => i = .loopCompute
  | .emit, .fetch, i => i = .loopEmit
  | _, .ready, i => i = .sysReset
  | _, _, _ => False

/-- One operation on a single ring buffer. -/
inductive RingOp where
  | push (v : Sample)
  | pop
  deriving DecidableEq, Repr

/-- A run of pushes and pops on one ring buffer, with what each answered: for a push whether it was accepted, for a pop
the Sample or none. -/
def Ring.runOps (cap : Nat) : Ring → List RingOp → Except Fault (Ring × List (Bool ⊕ Option Sample))
  | r, [] => .ok (r, [])
  | r, .push v :: ops =>
    match Ring.runOps cap (r.push cap v).1 ops with
    | .error e => .error e
    | .ok (r', out) => .ok (r', .inl (r.push cap v).2 :: out)
  | r, .pop :: ops =>
    match r.pop cap with
    | .error e => .error e
    | .ok (r', v) =>
      match Ring.runOps cap r' ops with
      | .error e => .error e
      | .ok (r'', out) => .ok (r'', .inr v :: out)

/-- The same run on a first-in first-out queue of at most `cap` Samples (10_state.md R23, 40_ring_buffer.md R116). -/
def queueRun (cap : Nat) : List Sample → List RingOp → List Sample × List (Bool ⊕ Option Sample)
  | q, [] => (q, [])
  | q, .push v :: ops =>
    if q.length = cap then ((queueRun cap q ops).1, .inl false :: (queueRun cap q ops).2)
    else ((queueRun cap (q ++ [v]) ops).1, .inl true :: (queueRun cap (q ++ [v]) ops).2)
  | [], .pop :: ops => ((queueRun cap [] ops).1, .inr none :: (queueRun cap [] ops).2)
  | v :: q, .pop :: ops => ((queueRun cap q ops).1, .inr (some v) :: (queueRun cap q ops).2)

/-- The Samples `Pipe` gives for the Samples `xs` in order (44_processing_loop.md R189). -/
def State.pipeAll : State → List Sample → List Sample
  | _, [] => []
  | s, x :: xs => (s.pipe x).2 :: State.pipeAll (s.pipe x).1 xs

/-- How many of the next `n` turns are PROC's: the schedule names them, and after its end PROC moves (log 4). -/
def State.procTurns (s : State) (n : Nat) : Nat := (List.range n).countP (fun k => s.schedule.getD k .proc == .proc)

/-- No step of the next `n` performs a `SYS.RESET`. -/
def State.NoResetWithin (s : State) (n : Nat) : Prop :=
  ∀ (k : Nat) (t u : State), k < n → Host.Core.run Sys2Proof.core k s = .next t → t.fetch ≠ .command .sysReset u

/-- The state with the four sticky flags at 0 (10_state.md R24). -/
def State.withoutFlags (s : State) : State :=
  { s with inb := { s.inb with ovf := false, unf := false }, outb := { s.outb with ovf := false, unf := false } }

/-- The sum of 42_fir_filter.md R140 by index, as its pseudocode writes it: `acc = +0`, then `k = 0` to `n - 1` ascending. -/
def firSumByIndex (coef w : List Sample) : Nat → Sample
  | 0 => posZero
  | n + 1 => Fp.fadd (firSumByIndex coef w n) (Fp.fmul (coef.getD n posZero) (w.getD n posZero))

end Sys2Proof.Machine

namespace Sys2Proof.Fp

/-- The least magnitude that rounds to infinity under round to nearest, ties to even. -/
def overflowBound : ℚ := 2 ^ 128 - 2 ^ 103

/-- `r` is the real number `e` rounded to binary32 to nearest, ties to even (00_scope.md R13): no finite Sample is nearer,
in a tie the last bit is 0, and a magnitude of `overflowBound` or more gives an infinity with the sign of `e`. -/
structure RoundedTo (e : ℚ) (r : Sample) : Prop where
  finite : |e| < overflowBound → isFinite r = true
  nearest : |e| < overflowBound → ∀ c : Sample, isFinite c = true → |value r - e| ≤ |value c - e|
  tiesToEven : |e| < overflowBound → ∀ c : Sample, isFinite c = true → |value c - e| = |value r - e| →
    value c ≠ value r → magBits r % 2 = 0
  overflow : overflowBound ≤ |e| → isInf r = true ∧ (signBit r = true ↔ e < 0)

/-- `g` is `RN(1 / (2 * pi * k))` (43_discriminator.md R163): no finite Sample is nearer. (That real number is irrational for
a rational `k`, so there are no ties.) -/
def GainFor (k : ℝ) (g : Sample) : Prop :=
  isFinite g = true ∧ ∀ c : Sample, isFinite c = true →
    |((value g : ℚ) : ℝ) - 1 / (2 * Real.pi * k)| ≤ |((value c : ℚ) : ℝ) - 1 / (2 * Real.pi * k)|

end Sys2Proof.Fp
end

