-- ==== Sys2Proof/Certificates/Slice0/Obligations.lean ====
section
/-! DEFINITION. The statements for the provers. Each docstring names the rule of spec/ it formalises. -/

open Sys2Proof Sys2Proof.Machine

/-! Encoding (30_encoding.md) -/

/-- R92, R62: the command byte of each of the eighteen operations, followed by its data words, `d0` first, each word low
byte first. -/
def Obligations.EncodingTable : Prop :=
  ∀ x y : Sample,
    (encode .sysReset = [0x00#8] ∧ encode .sysStart = [0x01#8] ∧ encode .sysStop = [0x02#8] ∧ encode .sysStatus = [0x03#8]) ∧
    (encode (.rbPushIn x) = 0x20#8 :: Operands.bytesOfWord x ∧ encode .rbPopIn = [0x21#8] ∧ encode .rbEmptyIn = [0x22#8] ∧
      encode (.rbPushOut x) = 0x28#8 :: Operands.bytesOfWord x ∧ encode .rbPopOut = [0x29#8] ∧
      encode .rbEmptyOut = [0x2A#8]) ∧
    (encode (.ddcMix x) = 0x40#8 :: Operands.bytesOfWord x ∧ encode (.firStepI x) = 0x60#8 :: Operands.bytesOfWord x ∧
      encode (.firStepQ x) = 0x68#8 :: Operands.bytesOfWord x ∧ encode (.firStepO x) = 0x70#8 :: Operands.bytesOfWord x ∧
      encode (.discStep x y) = 0x80#8 :: (Operands.bytesOfWord x ++ Operands.bytesOfWord y)) ∧
    (encode .loopFetch = [0xA0#8] ∧ encode .loopCompute = [0xA1#8] ∧ encode .loopEmit = [0xA2#8]) ∧
    ∀ b0 b1 b2 b3 : Byte, Operands.bytesOfWord (b3 ++ b2 ++ b1 ++ b0) = [b0, b1, b2, b3]

/-- R91, R96, R97: decoding an encoded operation gives it back, every operand bit included, and leaves the bytes after it. -/
def Obligations.DecodeOfEncode : Prop :=
  ∀ (i : Instr) (rest : List Byte), decode (encode i ++ rest) = .instr i rest

/-- R91: a command has one encoding: whatever bytes decode to `i` are the encoding of `i`. -/
def Obligations.EncodeOfDecode : Prop :=
  ∀ (bs : List Byte) (i : Instr) (rest : List Byte), decode bs = .instr i rest → bs = encode i ++ rest

/-- R91: the whole command as one bit vector of 8, 40 or 72 bits, the command byte most significant, is read as its
operation. -/
def Obligations.CommandWordDecodes : Prop :=
  ∀ i : Instr, decodeTableWord (commandBits i) (commandWord i) = some i

/-- R92, R101: words written out from the encoding table decode to the operations they stand for. -/
def Obligations.WrittenCommandsDecode : Prop :=
  decode [0x20#8, 0x00#8, 0x00#8, 0x00#8, 0x3F#8] = .instr (.rbPushIn 0x3F000000#32) [] ∧
    decode [0x29#8] = .instr .rbPopOut [] ∧
    decode [0x40#8, 0x00#8, 0x00#8, 0x80#8, 0x3E#8] = .instr (.ddcMix 0x3E800000#32) [] ∧
    decode [0x70#8, 0x00#8, 0x00#8, 0x80#8, 0x3F#8] = .instr (.firStepO 0x3F800000#32) [] ∧
    decode [0x80#8, 0x00#8, 0x00#8, 0x80#8, 0x3F#8, 0x00#8, 0x00#8, 0x80#8, 0xBF#8] =
      .instr (.discStep 0x3F800000#32 0xBF800000#32) [] ∧
    decode [0x03#8] = .instr .sysStatus [] ∧ decode [0xA2#8] = .instr .loopEmit []

/-- R99: 18 of the 256 command bytes are operations; a reserved byte on any port is answered `REFUSED`, changes no state
of the block, sets no flag, and is the only byte consumed. -/
def Obligations.ReservedByteIsRefused : Prop :=
  operationBytes.Nodup ∧ operationBytes.length = 18 ∧
    ∀ (s : State) (a : Agent) (later : List Agent) (b : Byte) (rest : List Byte),
      s.schedule = a :: later → a ≠ .proc → s.port a = b :: rest → b ∉ operationBytes →
      step s = .next ({ s with schedule := later, reply := some .refused }.setPort a rest)

/-! The step (20_memory.md R67, 44_processing_loop.md R186) -/

/-- R67, R100: on an external agent's turn, when the bytes on its port decode to an operation, the step is `exec` of it, in
the state in which those bytes are consumed, with the turn over after it. -/
def Obligations.StepRunsDecodedCommand : Prop :=
  ∀ (s : State) (a : Agent) (later : List Agent) (i : Instr) (rest : List Byte),
    s.schedule = a :: later → a ≠ .proc → decode (s.port a) = .instr i rest →
    step s = match exec i ({ s with reply := none }.setPort a rest) with
      | .next t => .next { t with schedule := later }
      | .fault e => .fault e
      | .refused r => .refused r

/-- R186, R206: on PROC's turn the step is `exec` of the LOOP step of its phase; in `READY` and `HALTED` PROC has no step and
its turn passes. In each case its turn is over after the step. -/
def Obligations.StepRunsLoopPhase : Prop :=
  ∀ s : State, s.issuer = .proc →
    (∀ i, (s.seq = .fetch ∧ i = .loopFetch) ∨ (s.seq = .compute ∧ i = .loopCompute) ∨ (s.seq = .emit ∧ i = .loopEmit) →
      step s = match exec i { s with reply := none } with
        | .next t => .next { t with schedule := s.schedule.tail }
        | .fault e => .fault e
        | .refused r => .refused r) ∧
    (s.seq = .ready ∨ s.seq = .halted → step s = .next { s with schedule := s.schedule.tail, reply := none })

/-! Admission and responses (30_encoding.md R98, R100) -/

/-- R100, R226: an operation whose command byte is not in the issuer's row of the admission table is answered `REFUSED` and
changes nothing else. For PROC, which has no port, that answer is the model's choice (log 13). -/
def Obligations.UnadmittedCommandIsRefused : Prop :=
  ∀ (i : Instr) (s : State), i.cmdByte ∉ admittedBytes s.issuer s.seq →
    exec i s = .next { s with reply := some .refused }

/-- R98: an admitted operation is answered `REFUSED` only where it is `SYS.START` outside `READY` or `SYS.RESET` with a
configuration that is not well formed. -/
def Obligations.AdmittedCommandIsRefusedOnlyByRule : Prop :=
  ∀ (i : Instr) (s t : State), i.cmdByte ∈ admittedBytes s.issuer s.seq → exec i s = .next t →
    t.reply = some .refused → (i = .sysStart ∧ s.seq ≠ .ready) ∨ (i = .sysReset ∧ s.cfg.ok = false)

/-! System operations (45_system.md) -/

/-- R200, R36: `SYS.RESET` answers `OK` and leaves every element of state the spec gives a reset value at that value; with
a configuration that is not well formed it answers `REFUSED` and nothing changes. -/
def Obligations.SysResetResult : Prop :=
  ∀ s : State, s.issuer = .host →
    (s.cfg.ok = false → exec .sysReset s = .next { s with reply := some .refused }) ∧
    (s.cfg.ok = true → ∃ t, exec .sysReset s = .next t ∧ t.reply = some (.ok []) ∧ t.cfg = s.cfg ∧
      (∀ rb, (t.ring rb).head = 0 ∧ (t.ring rb).tail = (s.cfg.ring rb).pre ∧
        (∀ j, j < (s.cfg.ring rb).pre → (t.ring rb).slots.read j = some 0x00000000#32) ∧
        (t.ring rb).contents (s.cfg.ring rb).cap = List.replicate (s.cfg.ring rb).pre (some 0x00000000#32) ∧
        (t.ring rb).ovf = false ∧ (t.ring rb).unf = false) ∧
      t.quad = 0 ∧ t.prevRe = 0x00000000#32 ∧ t.prevIm = 0x00000000#32 ∧
      (∀ f, t.hist f = List.replicate (s.cfg.fir f).taps 0x00000000#32) ∧
      t.seq = .ready ∧ t.stop = false ∧ t.status = 0x0000#16)

/-- R201: `SYS.START` moves `READY` to `FETCH` and answers `OK`, and nothing else changes; in any other phase it answers
`REFUSED` and nothing changes; with `STOP` already 1 the first `LOOP.FETCH` halts the loop. -/
def Obligations.SysStartResult : Prop :=
  ∀ s : State, s.issuer = .host →
    (s.seq = .ready → exec .sysStart s = .next { s with seq := .fetch, reply := some (.ok []) }) ∧
    (s.seq ≠ .ready → exec .sysStart s = .next { s with reply := some .refused }) ∧
    (s.seq = .ready → s.stop = true →
      exec .loopFetch { s with seq := .fetch, schedule := .proc :: s.schedule, reply := none } =
        .next { s with seq := .halted, schedule := .proc :: s.schedule, reply := none })

/-- R203: `SYS.STOP` sets `STOP`, answers `OK` and changes nothing else, in any phase; after it the next `LOOP.FETCH`
halts the loop. -/
def Obligations.SysStopResult : Prop :=
  ∀ s : State,
    (s.issuer = .host → exec .sysStop s = .next { s with stop := true, reply := some (.ok []) }) ∧
    (s.seq = .fetch → exec .loopFetch { s with stop := true, schedule := .proc :: s.schedule, reply := none } =
      .next { s with stop := true, seq := .halted, schedule := .proc :: s.schedule, reply := none })

/-- R204, R32: `SYS.STATUS` changes nothing and answers one word with `RUN` in bits 1:0, `STOP` in bit 2, `IN_OVF` in 3, `IN_UNF`
in 4, `OUT_OVF` in 5, `OUT_UNF` in 6 and zeros above. -/
def Obligations.SysStatusResult : Prop :=
  ∀ s : State, s.issuer = .host → ∃ w : Word,
    exec .sysStatus s = .next { s with reply := some (.ok [w]) } ∧
    w.toNat = (match s.seq with | .ready => 0 | .halted => 2 | _ => 1) + 4 * s.stop.toNat + 8 * s.inb.ovf.toNat +
      16 * s.inb.unf.toNat + 32 * s.outb.ovf.toNat + 64 * s.outb.unf.toNat

/-! Ring buffers (40_ring_buffer.md) -/

/-- R111: a push on a full buffer sets `OVF` and answers `REJECTED`; otherwise it stores the Sample in slot
`tail mod CAP`, advances `tail` modulo `2 * CAP` and answers `OK`; nothing else changes. -/
def Obligations.RbPushResult : Prop :=
  (∀ (v : Sample) (s : State), s.issuer = .cap → 1 ≤ s.cfg.ringIn.cap →
    let cap := s.cfg.ringIn.cap
    let occ : Int := ((s.inb.tail : Int) - s.inb.head) % (2 * cap)
    (occ = cap → exec (.rbPushIn v) s = .next { s with inb := { s.inb with ovf := true }, reply := some .rejected }) ∧
    (occ ≠ cap → exec (.rbPushIn v) s = .next { s with
      inb := { s.inb with slots := s.inb.slots.write (s.inb.tail % cap) v, tail := (s.inb.tail + 1) % (2 * cap) }
      reply := some (.ok []) })) ∧
  (∀ (v : Sample) (s : State), s.issuer = .host → s.seq = .ready → 1 ≤ s.cfg.ringOut.cap →
    let cap := s.cfg.ringOut.cap
    let occ : Int := ((s.outb.tail : Int) - s.outb.head) % (2 * cap)
    (occ = cap → exec (.rbPushOut v) s = .next { s with outb := { s.outb with ovf := true }, reply := some .rejected }) ∧
    (occ ≠ cap → exec (.rbPushOut v) s = .next { s with
      outb := { s.outb with slots := s.outb.slots.write (s.outb.tail % cap) v, tail := (s.outb.tail + 1) % (2 * cap) }
      reply := some (.ok []) }))

/-- R112: a pop on an empty buffer sets `UNF` and answers `EMPTY`; otherwise it answers the Sample in slot
`head mod CAP` and advances `head` modulo `2 * CAP`; nothing else changes. -/
def Obligations.RbPopResult : Prop :=
  (∀ s : State, s.issuer = .host → s.seq = .ready →
    let cap := s.cfg.ringIn.cap
    (s.inb.head = s.inb.tail →
      exec .rbPopIn s = .next { s with inb := { s.inb with unf := true }, reply := some .empty }) ∧
    (∀ v, s.inb.head ≠ s.inb.tail → s.inb.slots.read (s.inb.head % cap) = some v →
      exec .rbPopIn s =
        .next { s with inb := { s.inb with head := (s.inb.head + 1) % (2 * cap) }, reply := some (.ok [v]) })) ∧
  (∀ s : State, s.issuer = .play →
    let cap := s.cfg.ringOut.cap
    (s.outb.head = s.outb.tail →
      exec .rbPopOut s = .next { s with outb := { s.outb with unf := true }, reply := some .empty }) ∧
    (∀ v, s.outb.head ≠ s.outb.tail → s.outb.slots.read (s.outb.head % cap) = some v →
      exec .rbPopOut s =
        .next { s with outb := { s.outb with head := (s.outb.head + 1) % (2 * cap) }, reply := some (.ok [v]) }))

/-- Where the model stops (log 7; 92_eei_decisions.md D35): a pop, by `RB.POP` or inside `LOOP.FETCH`, of a slot that nothing
has written faults as `unwrittenSlot`. -/
def Obligations.PopOfUnwrittenSlotFaults : Prop :=
  ∀ s : State,
    (s.inb.head ≠ s.inb.tail → s.inb.slots.read (s.inb.head % s.cfg.ringIn.cap) = none →
      (s.issuer = .host → s.seq = .ready → exec .rbPopIn s = .fault .unwrittenSlot) ∧
      (s.issuer = .proc → s.seq = .fetch → s.stop = false → exec .loopFetch s = .fault .unwrittenSlot)) ∧
    (s.outb.head ≠ s.outb.tail → s.outb.slots.read (s.outb.head % s.cfg.ringOut.cap) = none →
      s.issuer = .play → exec .rbPopOut s = .fault .unwrittenSlot)

/-- R113: `RB.EMPTY` answers one word, 1 where `head` equals `tail` and 0 where not, and changes nothing; either end of the
buffer may issue it. -/
def Obligations.RbEmptyResult : Prop :=
  (∀ s : State, s.issuer = .cap ∨ (s.issuer = .host ∧ s.seq = .ready) →
    exec .rbEmptyIn s = .next { s with reply := some (.ok [if s.inb.head = s.inb.tail then 1#32 else 0#32]) }) ∧
  (∀ s : State, s.issuer = .play ∨ (s.issuer = .host ∧ s.seq = .ready) →
    exec .rbEmptyOut s = .next { s with reply := some (.ok [if s.outb.head = s.outb.tail then 1#32 else 0#32]) })

/-- R116: what a push and a pop do to `Contents(rb)`, from every ring buffer that meets the invariant, and that the
invariant is kept. -/
def Obligations.ContentsBehaveAsQueue : Prop :=
  ∀ (cap : Nat) (r : Ring), r.Inv cap →
    (∀ v, (r.contents cap).length < cap → (r.push cap v).2 = true ∧ (r.push cap v).1.Inv cap ∧
      (r.push cap v).1.contents cap = r.contents cap ++ [some v]) ∧
    (∀ v, (r.contents cap).length = cap → (r.push cap v).2 = false ∧ (r.push cap v).1.Inv cap ∧
      (r.push cap v).1.contents cap = r.contents cap) ∧
    (∀ v q, r.contents cap = some v :: q →
      ∃ r', r.pop cap = .ok (r', some v) ∧ r'.Inv cap ∧ r'.contents cap = q) ∧
    (r.contents cap = [] → ∃ r', r.pop cap = .ok (r', none) ∧ r'.Inv cap ∧ r'.contents cap = []) ∧
    (r.isEmpty = true ↔ r.contents cap = [])

/-- R68, R116: over any sequence of pushes and pops a ring buffer answers exactly as a first-in first-out queue of
`CAP` Samples does, never stops, and ends with the queue's contents. -/
def Obligations.RingRefinesQueue : Prop :=
  ∀ (cap : Nat) (r : Ring) (q : List Sample) (ops : List RingOp), r.Inv cap → r.contents cap = q.map some →
    ∃ r', r.runOps cap ops = .ok (r', (queueRun cap q ops).2) ∧ r'.Inv cap ∧
      r'.contents cap = (queueRun cap q ops).1.map some

/-- R102: draining a ring buffer gives its contents in order and leaves it empty, with `UNF` set by the final `EMPTY`. -/
def Obligations.DrainGivesContents : Prop :=
  ∀ (cap : Nat) (r : Ring), r.Inv cap → ∃ r' vs, r.drain cap (r.occ cap + 1) = .ok (r', vs) ∧
    vs.map some = r.contents cap ∧ r'.contents cap = [] ∧ r'.unf = true

/-! Downconverter (41_downconverter.md) -/

/-- R130, R131, R132: the four rows of the mixer table, each with the quadrant's advance; nothing else changes. -/
def Obligations.DdcMixResult : Prop :=
  ∀ (x : Sample) (s : State), s.issuer = .host → s.seq = .ready →
    (s.quad = 0 → exec (.ddcMix x) s = .next { s with quad := 1, reply := some (.ok [x, 0x00000000#32]) }) ∧
    (s.quad = 1 → exec (.ddcMix x) s =
      .next { s with quad := 2, reply := some (.ok [0x00000000#32, x ^^^ 0x80000000#32]) }) ∧
    (s.quad = 2 → exec (.ddcMix x) s =
      .next { s with quad := 3, reply := some (.ok [x ^^^ 0x80000000#32, 0x00000000#32]) }) ∧
    (s.quad = 3 → exec (.ddcMix x) s = .next { s with quad := 0, reply := some (.ok [0x00000000#32, x]) })

/-- R134: the four rows of the table are `s * cos(pi*n/2)` and `-s * sin(pi*n/2)` at `n mod 4`: the multiplication of the real
input by `exp(-j*pi*n/2)`. -/
def Obligations.MixIsRotation : Prop :=
  ∀ (n : Nat) (x : Sample), Fp.isFinite x = true →
    let iq := mix (BitVec.ofNat 2 n) x
    ((Fp.value iq.1 : ℚ) : ℝ) = ((Fp.value x : ℚ) : ℝ) * Real.cos (Real.pi * n / 2) ∧
      ((Fp.value iq.2 : ℚ) : ℝ) = -((Fp.value x : ℚ) : ℝ) * Real.sin (Real.pi * n / 2) ∧
      ((Fp.value iq.1 : ℚ) : ℂ) + ((Fp.value iq.2 : ℚ) : ℂ) * Complex.I =
        ((Fp.value x : ℚ) : ℂ) * Complex.exp (-Complex.I * Real.pi * n / 2)

/-- R135: from reset, after `N` consumed samples the quadrant is `N mod 4`. -/
def Obligations.QuadrantCycle : Prop :=
  ∀ (c : Cfg) (xs : List Sample), ((State.construct c).mixAll xs).quad.toNat = xs.length % 4

/-- R132, R25: `QUAD` changes only by an admitted `DDC.MIX` and by `LOOP.COMPUTE`, and there by exactly +1 modulo 4, or by
`SYS.RESET`, and there to 0. -/
def Obligations.QuadrantAdvancesOnlyOnSamples : Prop :=
  ∀ (i : Instr) (s t : State), exec i s = .next t →
    ((∃ x, i = .ddcMix x) ∨ i = .loopCompute → i.cmdByte ∈ admittedBytes s.issuer s.seq →
      t.quad.toNat = (s.quad.toNat + 1) % 4) ∧
    (t.quad ≠ s.quad → (∃ x, i = .ddcMix x) ∨ i = .loopCompute ∨ (i = .sysReset ∧ t.quad = 0))

/-! FIR filters (42_fir_filter.md) -/

/-- R140, R141: `FIR.STEP` puts the input in front of the instance's history and drops the oldest value, answers the sum
over ascending `k` from `+0`, each product and each sum rounded, and changes nothing else. -/
def Obligations.FirStepResult : Prop :=
  ∀ (x : Sample) (s : State), s.issuer = .host → s.seq = .ready →
    (s.cfg.firI.coef.length = s.cfg.firI.taps → s.wI.length = s.cfg.firI.taps → 1 ≤ s.cfg.firI.taps →
      exec (.firStepI x) s = .next { s with
        wI := x :: s.wI.dropLast
        reply := some (.ok [firSumByIndex s.cfg.firI.coef (x :: s.wI.dropLast) s.cfg.firI.taps]) }) ∧
    (s.cfg.firQ.coef.length = s.cfg.firQ.taps → s.wQ.length = s.cfg.firQ.taps → 1 ≤ s.cfg.firQ.taps →
      exec (.firStepQ x) s = .next { s with
        wQ := x :: s.wQ.dropLast
        reply := some (.ok [firSumByIndex s.cfg.firQ.coef (x :: s.wQ.dropLast) s.cfg.firQ.taps]) }) ∧
    (s.cfg.firO.coef.length = s.cfg.firO.taps → s.wO.length = s.cfg.firO.taps → 1 ≤ s.cfg.firO.taps →
      exec (.firStepO x) s = .next { s with
        wO := x :: s.wO.dropLast
        reply := some (.ok [firSumByIndex s.cfg.firO.coef (x :: s.wO.dropLast) s.cfg.firO.taps]) })

/-- R27: from reset, after the inputs `xs` the history holds them newest first, `+0` where there is no input that old. -/
def Obligations.FirHistoryIsLastInputs : Prop :=
  ∀ (c : Cfg) (f : FirId) (xs : List Sample) (k : Nat), k < (c.fir f).taps →
    (((State.construct c).firProcess f xs).1.hist f).length = (c.fir f).taps ∧
    (((State.construct c).firProcess f xs).1.hist f)[k]? =
      some (if k < xs.length then xs.getD (xs.length - 1 - k) posZero else posZero)

/-- R143: one call on a stream and any two calls on its parts give bit-identical outputs and the same state. -/
def Obligations.FirContinuity : Prop :=
  ∀ (s : State) (f : FirId) (xs ys : List Sample),
    s.firProcess f (xs ++ ys) =
      (((s.firProcess f xs).1.firProcess f ys).1, (s.firProcess f xs).2 ++ ((s.firProcess f xs).1.firProcess f ys).2)

/-- R144: from reset, a unit impulse gives the coefficients in order, bit for bit where a coefficient is not zero and `+0`
where it is, and then `+0` for ever. -/
def Obligations.FirImpulseResponse : Prop :=
  ∀ (c : Cfg) (f : FirId) (m k : Nat), c.ok = true → k ≤ m →
    let out := ((State.construct c).firProcess f (0x3F800000#32 :: List.replicate m 0x00000000#32)).2
    (∀ h : k < (c.fir f).coef.length, out[k]? =
      some (if Fp.isZero (c.fir f).coef[k] then 0x00000000#32 else (c.fir f).coef[k])) ∧
    ((c.fir f).taps ≤ k → out[k]? = some 0x00000000#32)

/-! Discriminator (43_discriminator.md) -/

/-- R160, R161, R164: the output of `DISC.STEP` from the previous and the current sample, the fallback where `dot` is `+0` or
`-0`, and the update of the previous sample; nothing else changes. -/
def Obligations.DiscStepResult : Prop :=
  ∀ (re0 im0 : Sample) (s : State), s.issuer = .host → s.seq = .ready →
    let cross := Fp.fsub (Fp.fmul s.prevRe im0) (Fp.fmul s.prevIm re0)
    let dot := Fp.fadd (Fp.fmul s.prevRe re0) (Fp.fmul s.prevIm im0)
    (dot = 0x00000000#32 ∨ dot = 0x80000000#32 → exec (.discStep re0 im0) s = .next { s with
      prevRe := re0, prevIm := im0, reply := some (.ok [Fp.fmul s.cfg.gain (Fp.fatan cross)]) }) ∧
    (dot ≠ 0x00000000#32 → dot ≠ 0x80000000#32 → exec (.discStep re0 im0) s = .next { s with
      prevRe := re0, prevIm := im0, reply := some (.ok [Fp.fmul s.cfg.gain (Fp.fatan (Fp.fdiv cross dot))]) })

/-- R167: with the previous sample `(+0, +0)`, a finite current sample and a finite gain, the output is a zero. -/
def Obligations.FirstDiscriminatorOutputIsZero : Prop :=
  ∀ (s : State) (re0 im0 : Sample), s.prevRe = 0x00000000#32 → s.prevIm = 0x00000000#32 →
    Fp.isFinite re0 = true → Fp.isFinite im0 = true → Fp.isFinite s.cfg.gain = true →
    Fp.isZero (s.discStep re0 im0).2 = true

/-- R169: from (1, 0) to (0, 1) and to (0, 2) the output is `GAIN * atan(1)` and `GAIN * atan(2)`: the fallback, not the limit. -/
def Obligations.FallbackIsNotTheLimit : Prop :=
  ∀ s : State, s.prevRe = 0x3F800000#32 → s.prevIm = 0x00000000#32 →
    (s.discStep 0x00000000#32 0x3F800000#32).2 = Fp.fmul s.cfg.gain (Fp.fatan 0x3F800000#32) ∧
    (s.discStep 0x00000000#32 0x40000000#32).2 = Fp.fmul s.cfg.gain (Fp.fatan 0x40000000#32)

/-- R166: where `dot` is a NaN the output is a NaN, and a NaN in the previous sample lasts one step only: the next step
overwrites both registers. -/
def Obligations.DiscriminatorNaN : Prop :=
  ∀ (s : State) (re0 im0 : Sample),
    (Fp.isNaN (discDot s.prevRe s.prevIm re0 im0) = true → Fp.isNaN (s.discStep re0 im0).2 = true) ∧
    (s.discStep re0 im0).1.prevRe = re0 ∧ (s.discStep re0 im0).1.prevIm = im0

/-- R163: `GAIN` for `K = 0.1`, the pattern 0x3FCBB7E4, is the real `1 / (2 * pi * K)` rounded to nearest, for the real number
0.1 and for the binary32 `K` that State.reset carries. -/
def Obligations.ReferenceGainIsRounded : Prop :=
  Fp.GainFor (1 / 10) 0x3FCBB7E4#32 ∧
    Fp.GainFor ((Fp.value State.reset.cfg.k : ℚ) : ℝ) State.reset.cfg.gain ∧ State.reset.cfg.gain = 0x3FCBB7E4#32

/-- R163, R162, R7: in every configuration `GAIN` is the real `1 / (2 * pi * K)` rounded to nearest, with the sign of `K`; where that
is out of range `GAIN` is infinite and the configuration is not well formed (R8). -/
def Obligations.GainIsRoundedForEveryK : Prop :=
  ∀ c : Cfg, Fp.isFinite c.k = true → Fp.isZero c.k = false →
    let r : ℝ := 1 / (2 * Real.pi * ((Fp.value c.k : ℚ) : ℝ))
    (|r| < ((Fp.overflowBound : ℚ) : ℝ) → Fp.GainFor ((Fp.value c.k : ℚ) : ℝ) c.gain) ∧
    (((Fp.overflowBound : ℚ) : ℝ) ≤ |r| → Fp.isInf c.gain = true ∧ c.ok = false) ∧
    Fp.signBit c.gain = Fp.signBit c.k

/-- R165: the named properties of `Atan`: exact at the zeros, odd, monotone, within one unit in the last place (of the
result) of the real arctangent, `RN(pi/2)` with its sign at the infinities, a NaN for a NaN. -/
def Obligations.AtanProperties : Prop :=
  Fp.fatan 0x00000000#32 = 0x00000000#32 ∧ Fp.fatan 0x80000000#32 = 0x80000000#32 ∧
    (∀ x, Fp.isNaN x = false → Fp.fatan (Fp.fneg x) = Fp.fneg (Fp.fatan x)) ∧
    (∀ x y, Fp.isNaN x = false → Fp.isNaN y = false → Fp.ord x ≤ Fp.ord y → Fp.ord (Fp.fatan x) ≤ Fp.ord (Fp.fatan y)) ∧
    (∀ x, Fp.isFinite x = true → |((Fp.value (Fp.fatan x) : ℚ) : ℝ) - Real.arctan ((Fp.value x : ℚ) : ℝ)| ≤
      (Fp.ulpUnits (Fp.magBits (Fp.fatan x)) : ℝ) / 2 ^ 149) ∧
    Fp.fatan 0x7F800000#32 = 0x3FC90FDB#32 ∧ Fp.fatan 0xFF800000#32 = 0xBFC90FDB#32 ∧
    (∀ c : Sample, Fp.isFinite c = true →
      |((Fp.value 0x3FC90FDB#32 : ℚ) : ℝ) - Real.pi / 2| ≤ |((Fp.value c : ℚ) : ℝ) - Real.pi / 2|) ∧
    (∀ x, Fp.isNaN x = true → Fp.isNaN (Fp.fatan x) = true)

/-! The arithmetic (00_scope.md R13) -/

/-- R13: `fadd` and `fsub` of finite operands are the exact sum and difference rounded to nearest, ties to even; an exact zero
is `+0` unless both terms have the sign bit set. -/
def Obligations.AddSubCorrectlyRounded : Prop :=
  ∀ a b : Sample, Fp.isFinite a = true → Fp.isFinite b = true →
    Fp.RoundedTo (Fp.value a + Fp.value b) (Fp.fadd a b) ∧ Fp.RoundedTo (Fp.value a - Fp.value b) (Fp.fsub a b) ∧
    (Fp.value a + Fp.value b = 0 →
      Fp.fadd a b = if Fp.signBit a && Fp.signBit b then 0x80000000#32 else 0x00000000#32) ∧
    (Fp.value a - Fp.value b = 0 →
      Fp.fsub a b = if Fp.signBit a && !Fp.signBit b then 0x80000000#32 else 0x00000000#32)

/-- R13: `fmul` and `fdiv` of finite operands (the divisor not zero) are the exact product and quotient rounded to nearest, ties
to even, and carry the exclusive or of the signs. -/
def Obligations.MulDivCorrectlyRounded : Prop :=
  ∀ a b : Sample, Fp.isFinite a = true → Fp.isFinite b = true →
    Fp.RoundedTo (Fp.value a * Fp.value b) (Fp.fmul a b) ∧
    Fp.signBit (Fp.fmul a b) = (Fp.signBit a != Fp.signBit b) ∧
    (Fp.isZero b = false → Fp.RoundedTo (Fp.value a / Fp.value b) (Fp.fdiv a b) ∧
      Fp.signBit (Fp.fdiv a b) = (Fp.signBit a != Fp.signBit b))

/-- R166, R13: NaN operands and the invalid operations give a NaN, whatever its free bits. A sum or difference with one
infinity is that infinity, its sign inverted where it is subtracted; an infinite product, an infinite quotient (a finite
value other than zero by a zero among them) and a zero quotient carry the exclusive or of the signs. -/
def Obligations.NonFiniteArithmetic : Prop :=
  ∀ a b : Sample,
    (Fp.isNaN a = true ∨ Fp.isNaN b = true → Fp.isNaN (Fp.fadd a b) = true ∧ Fp.isNaN (Fp.fsub a b) = true ∧
      Fp.isNaN (Fp.fmul a b) = true ∧ Fp.isNaN (Fp.fdiv a b) = true) ∧
    (Fp.isInf a = true → Fp.isInf b = true →
      (if Fp.signBit a = Fp.signBit b then Fp.fadd a b = a ∧ Fp.isNaN (Fp.fsub a b) = true
        else Fp.isNaN (Fp.fadd a b) = true ∧ Fp.fsub a b = a) ∧ Fp.isNaN (Fp.fdiv a b) = true) ∧
    (Fp.isInf a = true → Fp.isZero b = true → Fp.isNaN (Fp.fmul a b) = true ∧ Fp.isNaN (Fp.fmul b a) = true) ∧
    (Fp.isZero a = true → Fp.isZero b = true → Fp.isNaN (Fp.fdiv a b) = true) ∧
    (Fp.isInf a = true → Fp.isFinite b = true →
      Fp.fadd a b = a ∧ Fp.fadd b a = a ∧ Fp.fsub a b = a ∧ Fp.fsub b a = Fp.fneg a ∧
      Fp.isZero (Fp.fdiv b a) = true ∧ Fp.signBit (Fp.fdiv b a) = (Fp.signBit b != Fp.signBit a) ∧
      Fp.isInf (Fp.fdiv a b) = true ∧ Fp.signBit (Fp.fdiv a b) = (Fp.signBit a != Fp.signBit b)) ∧
    (Fp.isInf a = true → Fp.isNaN b = false → Fp.isZero b = false →
      Fp.isInf (Fp.fmul a b) = true ∧ Fp.signBit (Fp.fmul a b) = (Fp.signBit a != Fp.signBit b) ∧
      Fp.isInf (Fp.fmul b a) = true ∧ Fp.signBit (Fp.fmul b a) = (Fp.signBit b != Fp.signBit a)) ∧
    (Fp.isFinite a = true → Fp.isZero a = false → Fp.isZero b = true →
      Fp.isInf (Fp.fdiv a b) = true ∧ Fp.signBit (Fp.fdiv a b) = (Fp.signBit a != Fp.signBit b))

/-! Processing loop (44_processing_loop.md) -/

/-- R181: `LOOP.FETCH` halts where `STOP` is 1; idles, changing nothing, where `IN` is empty; otherwise pops one Sample into
`S_HOLD` and goes to `COMPUTE`. It gives no response. -/
def Obligations.LoopFetchResult : Prop :=
  ∀ s : State, s.issuer = .proc → s.seq = .fetch →
    (s.stop = true → exec .loopFetch s = .next { s with seq := .halted, reply := none }) ∧
    (s.stop = false → s.inb.head = s.inb.tail → exec .loopFetch s = .next { s with reply := none }) ∧
    (∀ v, s.stop = false → s.inb.head ≠ s.inb.tail →
      s.inb.slots.read (s.inb.head % s.cfg.ringIn.cap) = some v →
      exec .loopFetch s = .next { s with
        inb := { s.inb with head := (s.inb.head + 1) % (2 * s.cfg.ringIn.cap) }
        sHold := v, seq := .compute, reply := none })

/-- R182, R184: `LOOP.COMPUTE` puts `Pipe(S_HOLD)` into `A_HOLD`: mixer, I and Q filters, discriminator, output filter, each
with its own update, and goes to `EMIT`; nothing else changes. -/
def Obligations.LoopComputeResult : Prop :=
  ∀ s : State, s.issuer = .proc → s.seq = .compute → s.Inv →
    let iq := mix s.quad s.sHold
    let wI := iq.1 :: s.wI.dropLast
    let wQ := iq.2 :: s.wQ.dropLast
    let fi := firSumByIndex s.cfg.firI.coef wI s.cfg.firI.taps
    let fq := firSumByIndex s.cfg.firQ.coef wQ s.cfg.firQ.taps
    let cross := Fp.fsub (Fp.fmul s.prevRe fq) (Fp.fmul s.prevIm fi)
    let dot := Fp.fadd (Fp.fmul s.prevRe fi) (Fp.fmul s.prevIm fq)
    let d := Fp.fmul s.cfg.gain (Fp.fatan (if Fp.isZero dot then cross else Fp.fdiv cross dot))
    let wO := d :: s.wO.dropLast
    exec .loopCompute s = .next { s with
      quad := s.quad + 1, wI := wI, wQ := wQ, prevRe := fi, prevIm := fq, wO := wO
      aHold := firSumByIndex s.cfg.firO.coef wO s.cfg.firO.taps, seq := .emit, reply := none }

/-- R183: `LOOP.EMIT` pushes `A_HOLD` to `OUT`, or drops it and sets `OUT.OVF` where `OUT` is full, and goes to `FETCH` in both
cases; nothing else changes. -/
def Obligations.LoopEmitResult : Prop :=
  ∀ s : State, s.issuer = .proc → s.seq = .emit → 1 ≤ s.cfg.ringOut.cap →
    let cap := s.cfg.ringOut.cap
    let occ : Int := ((s.outb.tail : Int) - s.outb.head) % (2 * cap)
    (occ = cap → exec .loopEmit s =
      .next { s with outb := { s.outb with ovf := true }, seq := .fetch, reply := none }) ∧
    (occ ≠ cap → exec .loopEmit s = .next { s with
      outb := { s.outb with slots := s.outb.slots.write (s.outb.tail % cap) s.aHold
                            tail := (s.outb.tail + 1) % (2 * cap) }
      seq := .fetch, reply := none })

/-- R102, R184: HOST issuing the five commands of `PIPE.SAMPLE` in `READY` leaves the state and the Sample that `Pipe` gives. -/
def Obligations.PipeSampleIsFiveCommands : Prop :=
  ∀ (s : State) (x : Sample), s.issuer = .host → s.seq = .ready →
    ∃ t1 t2 t3 t4 t5 i q fi fq d a,
      exec (.ddcMix x) s = .next t1 ∧ t1.reply = some (.ok [i, q]) ∧
      exec (.firStepI i) t1 = .next t2 ∧ t2.reply = some (.ok [fi]) ∧
      exec (.firStepQ q) t2 = .next t3 ∧ t3.reply = some (.ok [fq]) ∧
      exec (.discStep fi fq) t3 = .next t4 ∧ t4.reply = some (.ok [d]) ∧
      exec (.firStepO d) t4 = .next t5 ∧ t5.reply = some (.ok [a]) ∧
      s.pipe x = ({ t5 with reply := s.reply }, a)

/-- R188: `LOOP.COMPUTE` commutes with every operation of CAP, PLAY and HOST but `SYS.RESET`: in both orders the agent gets the
same response and the block ends in the same state. -/
def Obligations.ComputeCommutesWithOthers : Prop :=
  ∀ (s t1 t2 : State) (a : Agent) (i : Instr), s.seq = .compute → a ≠ .proc → i ≠ .sysReset →
    exec .loopCompute { s with schedule := [.proc] } = .next t1 → exec i { t1 with schedule := [a] } = .next t2 →
    ∃ u1 u2, exec i { s with schedule := [a] } = .next u1 ∧ u1.reply = t2.reply ∧
      exec .loopCompute { u1 with schedule := [.proc] } = .next u2 ∧
      { u2 with schedule := [a], reply := t2.reply } = t2

/-- R180, R189: PROC alone, running with `STOP` at 0, works off the whole contents of `IN` in order: three steps a Sample;
`OUT` receives the values `Pipe` gives in order, as far as it has room, and the quadrant advances once per Sample. -/
def Obligations.LoopWorksOffIngress : Prop :=
  ∀ (s : State) (q : List Sample), s.Inv → s.seq = .fetch → s.stop = false → s.schedule = [] →
    s.inb.contents s.cfg.ringIn.cap = q.map some →
    ∃ t : State, Host.Core.run Sys2Proof.core (3 * q.length) s = .next t ∧ t.Inv ∧ t.seq = .fetch ∧
      t.inb.contents t.cfg.ringIn.cap = [] ∧
      t.outb.contents t.cfg.ringOut.cap =
        (s.outb.contents s.cfg.ringOut.cap ++ (s.pipeAll q).map some).take s.cfg.ringOut.cap ∧
      t.quad.toNat = (s.quad.toNat + q.length) % 4

/-- R186: with `STOP` at 1 a running loop is `HALTED` after at most one more `LOOP.COMPUTE`, one `LOOP.EMIT` and one `LOOP.FETCH`
of PROC: after three steps of PROC alone, and after any run in which PROC has three turns, whatever the other agents do in
between but for a `SYS.RESET`. -/
def Obligations.StopHaltsWithinOneIteration : Prop :=
  (∀ s : State, s.stop = true → s.seq = .fetch ∨ s.seq = .compute ∨ s.seq = .emit → s.schedule = [] →
    ∃ t : State, Host.Core.run Sys2Proof.core 3 s = .next t ∧ t.seq = .halted) ∧
  (∀ (n : Nat) (s : State), s.Inv → s.stop = true → s.seq ≠ .ready → s.NoResetWithin n → 3 ≤ s.procTurns n →
    ∃ t : State, Host.Core.run Sys2Proof.core n s = .next t ∧ t.seq = .halted)

/-- R186, R31: with `STOP` at 1 and the loop started, no step but a `SYS.RESET` clears `STOP`; a step of another agent leaves
`SEQ`, and a step of PROC brings it nearer to `HALTED`: `COMPUTE`, `EMIT`, `FETCH`, `HALTED`. -/
def Obligations.StoppedLoopMovesTowardHalt : Prop :=
  ∀ s t : State, s.stop = true → s.seq ≠ .ready → (∀ u, s.fetch ≠ .command .sysReset u) → step s = .next t →
    t.stop = true ∧ (s.issuer ≠ .proc → t.seq = s.seq) ∧
    (s.issuer = .proc → t.seq = match s.seq with
      | .compute => .emit
      | .emit => .fetch
      | _ => .halted)

/-! Whole-machine rules -/

/-- R36, R114: the machine right after reset, with any well-formed configuration, meets the invariant, and so does
`State.reset`, whose configuration is the model's own choice (log 2). -/
def Obligations.InvAtReset : Prop :=
  (∀ c : Cfg, c.ok = true → (State.construct c).Inv) ∧ State.reset = State.construct Config.reference ∧
    Config.reference.ok = true

/-- R114: every step keeps the invariant. -/
def Obligations.StepKeepsInv : Prop :=
  ∀ s t : State, s.Inv → step s = .next t → t.Inv

/-- R79, R70: from every state that meets the invariant the step gives a next state: no pop reads a slot that nothing has
written, nothing blocks. -/
def Obligations.InvStepNeverStops : Prop :=
  ∀ s : State, s.Inv → ∃ t, step s = .next t

/-- R33, R257: no step changes the configuration. -/
def Obligations.ConfigurationIsFixed : Prop :=
  ∀ s t : State, step s = .next t → t.cfg = s.cfg

/-- R30: the phase changes only as listed, each change by its own operation; and the phases' numbers. -/
def Obligations.PhaseChangesAreExactly : Prop :=
  (∀ (i : Instr) (s t : State), exec i s = .next t → t.seq ≠ s.seq → PhaseChange s.seq t.seq i) ∧
    [Phase.ready, .fetch, .compute, .emit, .halted].map (fun ph => ph.code.toNat) = [0, 1, 2, 3, 4]

/-- R206: `HALTED` is left by a `SYS.RESET` of HOST and by nothing else. -/
def Obligations.HaltedIsLeftOnlyByReset : Prop :=
  ∀ s t : State, s.seq = .halted → step s = .next t → t.seq ≠ .halted →
    t.seq = .ready ∧ ∃ later rest, s.schedule = .host :: later ∧ decode s.hostPort = .instr .sysReset rest

/-- R31: `STOP` is set only by `SYS.STOP` and cleared only by `SYS.RESET`. -/
def Obligations.StopFlagRule : Prop :=
  ∀ (i : Instr) (s t : State), exec i s = .next t → t.stop ≠ s.stop →
    s.issuer = .host ∧ ((i = .sysStop ∧ t.stop = true) ∨ (i = .sysReset ∧ t.stop = false))

/-- R24: a sticky flag is cleared by nothing but `SYS.RESET`, is set exactly by a rejected push or an `EMPTY` pop on its
buffer, and is read by nothing but `SYS.STATUS`. -/
def Obligations.StickyFlagRule : Prop :=
  (∀ (i : Instr) (s t : State), exec i s = .next t → i ≠ .sysReset →
    (∀ rb, ((s.ring rb).ovf = true → (t.ring rb).ovf = true) ∧ ((s.ring rb).unf = true → (t.ring rb).unf = true)) ∧
    (s.inb.ovf = false → t.inb.ovf = true → (∃ v, i = .rbPushIn v) ∧ t.reply = some .rejected) ∧
    (s.inb.unf = false → t.inb.unf = true → i = .rbPopIn ∧ t.reply = some .empty) ∧
    (s.outb.ovf = false → t.outb.ovf = true → s.outb.occ s.cfg.ringOut.cap = s.cfg.ringOut.cap ∧
      ((∃ v, i = .rbPushOut v ∧ t.reply = some .rejected) ∨ i = .loopEmit)) ∧
    (s.outb.unf = false → t.outb.unf = true → i = .rbPopOut ∧ t.reply = some .empty) ∧
    (∀ v, i = .rbPushIn v → t.reply = some .rejected → t.inb.ovf = true) ∧
    (∀ v, i = .rbPushOut v → t.reply = some .rejected → t.outb.ovf = true) ∧
    (i = .rbPopIn → t.reply = some .empty → t.inb.unf = true) ∧
    (i = .rbPopOut → t.reply = some .empty → t.outb.unf = true) ∧
    (i = .loopEmit → s.issuer = .proc → s.seq = .emit → s.outb.occ s.cfg.ringOut.cap = s.cfg.ringOut.cap →
      t.outb.ovf = true)) ∧
  (∀ (i : Instr) (s t : State), exec i s = .next t → i ≠ .sysStatus →
    ∃ t', exec i s.withoutFlags = .next t' ∧ t'.withoutFlags = t.withoutFlags)

/-- R38: who may write what: an operation of CAP changes only `IN.slot`, `IN.tail` and `IN.OVF`; of PLAY only `OUT.head` and
`OUT.UNF`; of PROC nothing of CAP's, PLAY's and HOST's; of HOST, but for `SYS.RESET`, outside `READY` only `STOP`, and in
`READY` what PROC owns (R205) but not `S_HOLD` and `A_HOLD`: nothing of CAP's and PLAY's. -/
def Obligations.AgentsWriteOnlyTheirState : Prop :=
  ∀ (i : Instr) (s t : State), exec i s = .next t →
    (s.issuer = .cap →
      t = { s with inb := { s.inb with slots := t.inb.slots, tail := t.inb.tail, ovf := t.inb.ovf }, reply := t.reply }) ∧
    (s.issuer = .play → t = { s with outb := { s.outb with head := t.outb.head, unf := t.outb.unf }, reply := t.reply }) ∧
    (s.issuer = .proc → t.inb.slots = s.inb.slots ∧ t.inb.tail = s.inb.tail ∧ t.inb.ovf = s.inb.ovf ∧
      t.inb.unf = s.inb.unf ∧ t.outb.head = s.outb.head ∧ t.outb.unf = s.outb.unf ∧ t.stop = s.stop) ∧
    (s.issuer = .host → s.seq ≠ .ready → i ≠ .sysReset → t = { s with stop := t.stop, reply := t.reply }) ∧
    (s.issuer = .host → s.seq = .ready → i ≠ .sysReset → t = { s with
      inb := { s.inb with head := t.inb.head, unf := t.inb.unf }
      outb := { s.outb with slots := t.outb.slots, tail := t.outb.tail, ovf := t.outb.ovf }
      quad := t.quad, prevRe := t.prevRe, prevIm := t.prevIm, wI := t.wI, wQ := t.wQ, wO := t.wO
      seq := t.seq, stop := t.stop, reply := t.reply })

/-- R38, R77: what CAP and PLAY are answered depends on the ring buffers alone: two machines that differ in the loop's private
state, in `SEQ` or in `STOP` give them the same responses. -/
def Obligations.PrivateStateIsHidden : Prop :=
  ∀ (i : Instr) (s s' t : State), s.issuer = .cap ∨ s.issuer = .play → s'.issuer = s.issuer → s'.cfg = s.cfg →
    s'.inb = s.inb → s'.outb = s.outb → exec i s = .next t → ∃ t', exec i s' = .next t' ∧ t'.reply = t.reply

/-- R61, R111: the frame of memory for the operations that store: each stores at most in slot `tail mod CAP` of its own
buffer; every other slot of both buffers reads as before. -/
def Obligations.StoresReachOnlyTheTailSlot : Prop :=
  ∀ (s t : State) (v : Sample) (j : Nat),
    (exec (.rbPushIn v) s = .next t →
      (j ≠ slotOf s.cfg.ringIn.cap s.inb.tail → t.inb.slots.read j = s.inb.slots.read j) ∧
      t.outb.slots.read j = s.outb.slots.read j) ∧
    (exec (.rbPushOut v) s = .next t ∨ exec .loopEmit s = .next t →
      (j ≠ slotOf s.cfg.ringOut.cap s.outb.tail → t.outb.slots.read j = s.outb.slots.read j) ∧
      t.inb.slots.read j = s.inb.slots.read j)

/-- R21: the frame of memory for the others: "a slot is written only by `RB.PUSH` and by reset", the push inside `LOOP.EMIT`
included; after any other operation every slot of both buffers reads as before. -/
def Obligations.OthersLeaveSlotsUnchanged : Prop :=
  ∀ (i : Instr) (s t : State), exec i s = .next t → (∀ v, i ≠ .rbPushIn v) → (∀ v, i ≠ .rbPushOut v) →
    i ≠ .loopEmit → i ≠ .sysReset →
    ∀ (rb : RingId) (j : Nat), (t.ring rb).slots.read j = (s.ring rb).slots.read j
end

