-- ==== Sys2Proof/Laws/State.lean ====
section
/-! SUPPORT. What each shared update of the state leaves unchanged, one lemma per field and update, and what it writes. -/

namespace Sys2Proof.Machine

/-! `State.answer` -/

@[simp] theorem State.answer_cfg (s : State) (r : Response) : (s.answer r).cfg = s.cfg := rfl
@[simp] theorem State.answer_inb (s : State) (r : Response) : (s.answer r).inb = s.inb := rfl
@[simp] theorem State.answer_outb (s : State) (r : Response) : (s.answer r).outb = s.outb := rfl
@[simp] theorem State.answer_quad (s : State) (r : Response) : (s.answer r).quad = s.quad := rfl
@[simp] theorem State.answer_prevRe (s : State) (r : Response) : (s.answer r).prevRe = s.prevRe := rfl
@[simp] theorem State.answer_prevIm (s : State) (r : Response) : (s.answer r).prevIm = s.prevIm := rfl
@[simp] theorem State.answer_wI (s : State) (r : Response) : (s.answer r).wI = s.wI := rfl
@[simp] theorem State.answer_wQ (s : State) (r : Response) : (s.answer r).wQ = s.wQ := rfl
@[simp] theorem State.answer_wO (s : State) (r : Response) : (s.answer r).wO = s.wO := rfl
@[simp] theorem State.answer_sHold (s : State) (r : Response) : (s.answer r).sHold = s.sHold := rfl
@[simp] theorem State.answer_aHold (s : State) (r : Response) : (s.answer r).aHold = s.aHold := rfl
@[simp] theorem State.answer_seq (s : State) (r : Response) : (s.answer r).seq = s.seq := rfl
@[simp] theorem State.answer_stop (s : State) (r : Response) : (s.answer r).stop = s.stop := rfl
@[simp] theorem State.answer_capPort (s : State) (r : Response) : (s.answer r).capPort = s.capPort := rfl
@[simp] theorem State.answer_playPort (s : State) (r : Response) : (s.answer r).playPort = s.playPort := rfl
@[simp] theorem State.answer_hostPort (s : State) (r : Response) : (s.answer r).hostPort = s.hostPort := rfl
@[simp] theorem State.answer_schedule (s : State) (r : Response) : (s.answer r).schedule = s.schedule := rfl
@[simp] theorem State.answer_issuer (s : State) (r : Response) : (s.answer r).issuer = s.issuer := rfl
@[simp] theorem State.answer_reply (s : State) (r : Response) : (s.answer r).reply = some r := rfl

/-! `State.noAnswer` -/

@[simp] theorem State.noAnswer_cfg (s : State) : (s.noAnswer).cfg = s.cfg := rfl
@[simp] theorem State.noAnswer_inb (s : State) : (s.noAnswer).inb = s.inb := rfl
@[simp] theorem State.noAnswer_outb (s : State) : (s.noAnswer).outb = s.outb := rfl
@[simp] theorem State.noAnswer_quad (s : State) : (s.noAnswer).quad = s.quad := rfl
@[simp] theorem State.noAnswer_prevRe (s : State) : (s.noAnswer).prevRe = s.prevRe := rfl
@[simp] theorem State.noAnswer_prevIm (s : State) : (s.noAnswer).prevIm = s.prevIm := rfl
@[simp] theorem State.noAnswer_wI (s : State) : (s.noAnswer).wI = s.wI := rfl
@[simp] theorem State.noAnswer_wQ (s : State) : (s.noAnswer).wQ = s.wQ := rfl
@[simp] theorem State.noAnswer_wO (s : State) : (s.noAnswer).wO = s.wO := rfl
@[simp] theorem State.noAnswer_sHold (s : State) : (s.noAnswer).sHold = s.sHold := rfl
@[simp] theorem State.noAnswer_aHold (s : State) : (s.noAnswer).aHold = s.aHold := rfl
@[simp] theorem State.noAnswer_seq (s : State) : (s.noAnswer).seq = s.seq := rfl
@[simp] theorem State.noAnswer_stop (s : State) : (s.noAnswer).stop = s.stop := rfl
@[simp] theorem State.noAnswer_capPort (s : State) : (s.noAnswer).capPort = s.capPort := rfl
@[simp] theorem State.noAnswer_playPort (s : State) : (s.noAnswer).playPort = s.playPort := rfl
@[simp] theorem State.noAnswer_hostPort (s : State) : (s.noAnswer).hostPort = s.hostPort := rfl
@[simp] theorem State.noAnswer_schedule (s : State) : (s.noAnswer).schedule = s.schedule := rfl
@[simp] theorem State.noAnswer_issuer (s : State) : (s.noAnswer).issuer = s.issuer := rfl
@[simp] theorem State.noAnswer_reply (s : State) : (s.noAnswer).reply = none := rfl

/-! `State.endTurn` -/

@[simp] theorem State.endTurn_cfg (s : State) : (s.endTurn).cfg = s.cfg := rfl
@[simp] theorem State.endTurn_inb (s : State) : (s.endTurn).inb = s.inb := rfl
@[simp] theorem State.endTurn_outb (s : State) : (s.endTurn).outb = s.outb := rfl
@[simp] theorem State.endTurn_quad (s : State) : (s.endTurn).quad = s.quad := rfl
@[simp] theorem State.endTurn_prevRe (s : State) : (s.endTurn).prevRe = s.prevRe := rfl
@[simp] theorem State.endTurn_prevIm (s : State) : (s.endTurn).prevIm = s.prevIm := rfl
@[simp] theorem State.endTurn_wI (s : State) : (s.endTurn).wI = s.wI := rfl
@[simp] theorem State.endTurn_wQ (s : State) : (s.endTurn).wQ = s.wQ := rfl
@[simp] theorem State.endTurn_wO (s : State) : (s.endTurn).wO = s.wO := rfl
@[simp] theorem State.endTurn_sHold (s : State) : (s.endTurn).sHold = s.sHold := rfl
@[simp] theorem State.endTurn_aHold (s : State) : (s.endTurn).aHold = s.aHold := rfl
@[simp] theorem State.endTurn_seq (s : State) : (s.endTurn).seq = s.seq := rfl
@[simp] theorem State.endTurn_stop (s : State) : (s.endTurn).stop = s.stop := rfl
@[simp] theorem State.endTurn_capPort (s : State) : (s.endTurn).capPort = s.capPort := rfl
@[simp] theorem State.endTurn_playPort (s : State) : (s.endTurn).playPort = s.playPort := rfl
@[simp] theorem State.endTurn_hostPort (s : State) : (s.endTurn).hostPort = s.hostPort := rfl
@[simp] theorem State.endTurn_reply (s : State) : (s.endTurn).reply = s.reply := rfl
@[simp] theorem State.endTurn_schedule (s : State) : (s.endTurn).schedule = s.schedule.tail := rfl

/-! `State.setRing` -/

@[simp] theorem State.setRing_cfg (s : State) (rb : RingId) (r : Ring) : (s.setRing rb r).cfg = s.cfg := by cases rb <;> rfl
@[simp] theorem State.setRing_quad (s : State) (rb : RingId) (r : Ring) : (s.setRing rb r).quad = s.quad := by cases rb <;> rfl
@[simp] theorem State.setRing_prevRe (s : State) (rb : RingId) (r : Ring) : (s.setRing rb r).prevRe = s.prevRe := by cases rb <;> rfl
@[simp] theorem State.setRing_prevIm (s : State) (rb : RingId) (r : Ring) : (s.setRing rb r).prevIm = s.prevIm := by cases rb <;> rfl
@[simp] theorem State.setRing_wI (s : State) (rb : RingId) (r : Ring) : (s.setRing rb r).wI = s.wI := by cases rb <;> rfl
@[simp] theorem State.setRing_wQ (s : State) (rb : RingId) (r : Ring) : (s.setRing rb r).wQ = s.wQ := by cases rb <;> rfl
@[simp] theorem State.setRing_wO (s : State) (rb : RingId) (r : Ring) : (s.setRing rb r).wO = s.wO := by cases rb <;> rfl
@[simp] theorem State.setRing_sHold (s : State) (rb : RingId) (r : Ring) : (s.setRing rb r).sHold = s.sHold := by cases rb <;> rfl
@[simp] theorem State.setRing_aHold (s : State) (rb : RingId) (r : Ring) : (s.setRing rb r).aHold = s.aHold := by cases rb <;> rfl
@[simp] theorem State.setRing_seq (s : State) (rb : RingId) (r : Ring) : (s.setRing rb r).seq = s.seq := by cases rb <;> rfl
@[simp] theorem State.setRing_stop (s : State) (rb : RingId) (r : Ring) : (s.setRing rb r).stop = s.stop := by cases rb <;> rfl
@[simp] theorem State.setRing_capPort (s : State) (rb : RingId) (r : Ring) : (s.setRing rb r).capPort = s.capPort := by cases rb <;> rfl
@[simp] theorem State.setRing_playPort (s : State) (rb : RingId) (r : Ring) : (s.setRing rb r).playPort = s.playPort := by cases rb <;> rfl
@[simp] theorem State.setRing_hostPort (s : State) (rb : RingId) (r : Ring) : (s.setRing rb r).hostPort = s.hostPort := by cases rb <;> rfl
@[simp] theorem State.setRing_schedule (s : State) (rb : RingId) (r : Ring) : (s.setRing rb r).schedule = s.schedule := by cases rb <;> rfl
@[simp] theorem State.setRing_issuer (s : State) (rb : RingId) (r : Ring) : (s.setRing rb r).issuer = s.issuer := by cases rb <;> rfl
@[simp] theorem State.setRing_reply (s : State) (rb : RingId) (r : Ring) : (s.setRing rb r).reply = s.reply := by cases rb <;> rfl

@[simp] theorem State.setRing_ring (s : State) (rb : RingId) (r : Ring) : (s.setRing rb r).ring rb = r := by cases rb <;> rfl
@[simp] theorem State.setRing_ingress_outb (s : State) (r : Ring) : (s.setRing .ingress r).outb = s.outb := rfl
@[simp] theorem State.setRing_ingress_inb (s : State) (r : Ring) : (s.setRing .ingress r).inb = r := rfl
@[simp] theorem State.setRing_egress_inb (s : State) (r : Ring) : (s.setRing .egress r).inb = s.inb := rfl
@[simp] theorem State.setRing_egress_outb (s : State) (r : Ring) : (s.setRing .egress r).outb = r := rfl
@[simp] theorem State.ring_ingress (s : State) : s.ring .ingress = s.inb := rfl
@[simp] theorem State.ring_egress (s : State) : s.ring .egress = s.outb := rfl
@[simp] theorem State.cap_ingress (s : State) : s.cap .ingress = s.cfg.ringIn.cap := rfl
@[simp] theorem State.cap_egress (s : State) : s.cap .egress = s.cfg.ringOut.cap := rfl

/-! `State.setHist` -/

@[simp] theorem State.setHist_cfg (s : State) (f : FirId) (w : List Sample) : (s.setHist f w).cfg = s.cfg := by cases f <;> rfl
@[simp] theorem State.setHist_inb (s : State) (f : FirId) (w : List Sample) : (s.setHist f w).inb = s.inb := by cases f <;> rfl
@[simp] theorem State.setHist_outb (s : State) (f : FirId) (w : List Sample) : (s.setHist f w).outb = s.outb := by cases f <;> rfl
@[simp] theorem State.setHist_quad (s : State) (f : FirId) (w : List Sample) : (s.setHist f w).quad = s.quad := by cases f <;> rfl
@[simp] theorem State.setHist_prevRe (s : State) (f : FirId) (w : List Sample) : (s.setHist f w).prevRe = s.prevRe := by cases f <;> rfl
@[simp] theorem State.setHist_prevIm (s : State) (f : FirId) (w : List Sample) : (s.setHist f w).prevIm = s.prevIm := by cases f <;> rfl
@[simp] theorem State.setHist_sHold (s : State) (f : FirId) (w : List Sample) : (s.setHist f w).sHold = s.sHold := by cases f <;> rfl
@[simp] theorem State.setHist_aHold (s : State) (f : FirId) (w : List Sample) : (s.setHist f w).aHold = s.aHold := by cases f <;> rfl
@[simp] theorem State.setHist_seq (s : State) (f : FirId) (w : List Sample) : (s.setHist f w).seq = s.seq := by cases f <;> rfl
@[simp] theorem State.setHist_stop (s : State) (f : FirId) (w : List Sample) : (s.setHist f w).stop = s.stop := by cases f <;> rfl
@[simp] theorem State.setHist_capPort (s : State) (f : FirId) (w : List Sample) : (s.setHist f w).capPort = s.capPort := by cases f <;> rfl
@[simp] theorem State.setHist_playPort (s : State) (f : FirId) (w : List Sample) : (s.setHist f w).playPort = s.playPort := by cases f <;> rfl
@[simp] theorem State.setHist_hostPort (s : State) (f : FirId) (w : List Sample) : (s.setHist f w).hostPort = s.hostPort := by cases f <;> rfl
@[simp] theorem State.setHist_schedule (s : State) (f : FirId) (w : List Sample) : (s.setHist f w).schedule = s.schedule := by cases f <;> rfl
@[simp] theorem State.setHist_issuer (s : State) (f : FirId) (w : List Sample) : (s.setHist f w).issuer = s.issuer := by cases f <;> rfl
@[simp] theorem State.setHist_reply (s : State) (f : FirId) (w : List Sample) : (s.setHist f w).reply = s.reply := by cases f <;> rfl

@[simp] theorem State.setHist_hist (s : State) (f : FirId) (w : List Sample) : (s.setHist f w).hist f = w := by cases f <;> rfl
theorem State.setHist_hist_ne (s : State) (f g : FirId) (w : List Sample) (h : g ≠ f) :
    (s.setHist f w).hist g = s.hist g := by cases f <;> cases g <;> first | rfl | exact absurd rfl h
@[simp] theorem State.hist_i (s : State) : s.hist .i = s.wI := rfl
@[simp] theorem State.hist_q (s : State) : s.hist .q = s.wQ := rfl
@[simp] theorem State.hist_o (s : State) : s.hist .o = s.wO := rfl
@[simp] theorem Cfg_fir_i (c : Cfg) : c.fir .i = c.firI := rfl
@[simp] theorem Cfg_fir_q (c : Cfg) : c.fir .q = c.firQ := rfl
@[simp] theorem Cfg_fir_o (c : Cfg) : c.fir .o = c.firO := rfl
@[simp] theorem Cfg_ring_ingress (c : Cfg) : c.ring .ingress = c.ringIn := rfl
@[simp] theorem Cfg_ring_egress (c : Cfg) : c.ring .egress = c.ringOut := rfl

/-! `State.setPort` -/

@[simp] theorem State.setPort_cfg (s : State) (a : Agent) (bs : List Byte) : (s.setPort a bs).cfg = s.cfg := by cases a <;> rfl
@[simp] theorem State.setPort_inb (s : State) (a : Agent) (bs : List Byte) : (s.setPort a bs).inb = s.inb := by cases a <;> rfl
@[simp] theorem State.setPort_outb (s : State) (a : Agent) (bs : List Byte) : (s.setPort a bs).outb = s.outb := by cases a <;> rfl
@[simp] theorem State.setPort_quad (s : State) (a : Agent) (bs : List Byte) : (s.setPort a bs).quad = s.quad := by cases a <;> rfl
@[simp] theorem State.setPort_prevRe (s : State) (a : Agent) (bs : List Byte) : (s.setPort a bs).prevRe = s.prevRe := by cases a <;> rfl
@[simp] theorem State.setPort_prevIm (s : State) (a : Agent) (bs : List Byte) : (s.setPort a bs).prevIm = s.prevIm := by cases a <;> rfl
@[simp] theorem State.setPort_wI (s : State) (a : Agent) (bs : List Byte) : (s.setPort a bs).wI = s.wI := by cases a <;> rfl
@[simp] theorem State.setPort_wQ (s : State) (a : Agent) (bs : List Byte) : (s.setPort a bs).wQ = s.wQ := by cases a <;> rfl
@[simp] theorem State.setPort_wO (s : State) (a : Agent) (bs : List Byte) : (s.setPort a bs).wO = s.wO := by cases a <;> rfl
@[simp] theorem State.setPort_sHold (s : State) (a : Agent) (bs : List Byte) : (s.setPort a bs).sHold = s.sHold := by cases a <;> rfl
@[simp] theorem State.setPort_aHold (s : State) (a : Agent) (bs : List Byte) : (s.setPort a bs).aHold = s.aHold := by cases a <;> rfl
@[simp] theorem State.setPort_seq (s : State) (a : Agent) (bs : List Byte) : (s.setPort a bs).seq = s.seq := by cases a <;> rfl
@[simp] theorem State.setPort_stop (s : State) (a : Agent) (bs : List Byte) : (s.setPort a bs).stop = s.stop := by cases a <;> rfl
@[simp] theorem State.setPort_schedule (s : State) (a : Agent) (bs : List Byte) : (s.setPort a bs).schedule = s.schedule := by cases a <;> rfl
@[simp] theorem State.setPort_issuer (s : State) (a : Agent) (bs : List Byte) : (s.setPort a bs).issuer = s.issuer := by cases a <;> rfl
@[simp] theorem State.setPort_reply (s : State) (a : Agent) (bs : List Byte) : (s.setPort a bs).reply = s.reply := by cases a <;> rfl

/-! The datapath steps -/

@[simp] theorem State.mixStep_cfg (s : State) (x : Sample) : ((s.mixStep x).1).cfg = s.cfg := rfl
@[simp] theorem State.mixStep_inb (s : State) (x : Sample) : ((s.mixStep x).1).inb = s.inb := rfl
@[simp] theorem State.mixStep_outb (s : State) (x : Sample) : ((s.mixStep x).1).outb = s.outb := rfl
@[simp] theorem State.mixStep_prevRe (s : State) (x : Sample) : ((s.mixStep x).1).prevRe = s.prevRe := rfl
@[simp] theorem State.mixStep_prevIm (s : State) (x : Sample) : ((s.mixStep x).1).prevIm = s.prevIm := rfl
@[simp] theorem State.mixStep_wI (s : State) (x : Sample) : ((s.mixStep x).1).wI = s.wI := rfl
@[simp] theorem State.mixStep_wQ (s : State) (x : Sample) : ((s.mixStep x).1).wQ = s.wQ := rfl
@[simp] theorem State.mixStep_wO (s : State) (x : Sample) : ((s.mixStep x).1).wO = s.wO := rfl
@[simp] theorem State.mixStep_sHold (s : State) (x : Sample) : ((s.mixStep x).1).sHold = s.sHold := rfl
@[simp] theorem State.mixStep_aHold (s : State) (x : Sample) : ((s.mixStep x).1).aHold = s.aHold := rfl
@[simp] theorem State.mixStep_seq (s : State) (x : Sample) : ((s.mixStep x).1).seq = s.seq := rfl
@[simp] theorem State.mixStep_stop (s : State) (x : Sample) : ((s.mixStep x).1).stop = s.stop := rfl
@[simp] theorem State.mixStep_capPort (s : State) (x : Sample) : ((s.mixStep x).1).capPort = s.capPort := rfl
@[simp] theorem State.mixStep_playPort (s : State) (x : Sample) : ((s.mixStep x).1).playPort = s.playPort := rfl
@[simp] theorem State.mixStep_hostPort (s : State) (x : Sample) : ((s.mixStep x).1).hostPort = s.hostPort := rfl
@[simp] theorem State.mixStep_schedule (s : State) (x : Sample) : ((s.mixStep x).1).schedule = s.schedule := rfl
@[simp] theorem State.mixStep_issuer (s : State) (x : Sample) : ((s.mixStep x).1).issuer = s.issuer := rfl
@[simp] theorem State.mixStep_reply (s : State) (x : Sample) : ((s.mixStep x).1).reply = s.reply := rfl
@[simp] theorem State.mixStep_quad (s : State) (x : Sample) : ((s.mixStep x).1).quad = s.quad + 1 := rfl

@[simp] theorem State.discStep_cfg (s : State) (x y : Sample) : ((s.discStep x y).1).cfg = s.cfg := rfl
@[simp] theorem State.discStep_inb (s : State) (x y : Sample) : ((s.discStep x y).1).inb = s.inb := rfl
@[simp] theorem State.discStep_outb (s : State) (x y : Sample) : ((s.discStep x y).1).outb = s.outb := rfl
@[simp] theorem State.discStep_quad (s : State) (x y : Sample) : ((s.discStep x y).1).quad = s.quad := rfl
@[simp] theorem State.discStep_wI (s : State) (x y : Sample) : ((s.discStep x y).1).wI = s.wI := rfl
@[simp] theorem State.discStep_wQ (s : State) (x y : Sample) : ((s.discStep x y).1).wQ = s.wQ := rfl
@[simp] theorem State.discStep_wO (s : State) (x y : Sample) : ((s.discStep x y).1).wO = s.wO := rfl
@[simp] theorem State.discStep_sHold (s : State) (x y : Sample) : ((s.discStep x y).1).sHold = s.sHold := rfl
@[simp] theorem State.discStep_aHold (s : State) (x y : Sample) : ((s.discStep x y).1).aHold = s.aHold := rfl
@[simp] theorem State.discStep_seq (s : State) (x y : Sample) : ((s.discStep x y).1).seq = s.seq := rfl
@[simp] theorem State.discStep_stop (s : State) (x y : Sample) : ((s.discStep x y).1).stop = s.stop := rfl
@[simp] theorem State.discStep_capPort (s : State) (x y : Sample) : ((s.discStep x y).1).capPort = s.capPort := rfl
@[simp] theorem State.discStep_playPort (s : State) (x y : Sample) : ((s.discStep x y).1).playPort = s.playPort := rfl
@[simp] theorem State.discStep_hostPort (s : State) (x y : Sample) : ((s.discStep x y).1).hostPort = s.hostPort := rfl
@[simp] theorem State.discStep_schedule (s : State) (x y : Sample) : ((s.discStep x y).1).schedule = s.schedule := rfl
@[simp] theorem State.discStep_issuer (s : State) (x y : Sample) : ((s.discStep x y).1).issuer = s.issuer := rfl
@[simp] theorem State.discStep_reply (s : State) (x y : Sample) : ((s.discStep x y).1).reply = s.reply := rfl
@[simp] theorem State.discStep_prevRe (s : State) (x y : Sample) : ((s.discStep x y).1).prevRe = x := rfl
@[simp] theorem State.discStep_prevIm (s : State) (x y : Sample) : ((s.discStep x y).1).prevIm = y := rfl

@[simp] theorem State.firStep_cfg (s : State) (f : FirId) (x : Sample) : ((s.firStep f x).1).cfg = s.cfg := by cases f <;> rfl
@[simp] theorem State.firStep_inb (s : State) (f : FirId) (x : Sample) : ((s.firStep f x).1).inb = s.inb := by cases f <;> rfl
@[simp] theorem State.firStep_outb (s : State) (f : FirId) (x : Sample) : ((s.firStep f x).1).outb = s.outb := by cases f <;> rfl
@[simp] theorem State.firStep_quad (s : State) (f : FirId) (x : Sample) : ((s.firStep f x).1).quad = s.quad := by cases f <;> rfl
@[simp] theorem State.firStep_prevRe (s : State) (f : FirId) (x : Sample) : ((s.firStep f x).1).prevRe = s.prevRe := by cases f <;> rfl
@[simp] theorem State.firStep_prevIm (s : State) (f : FirId) (x : Sample) : ((s.firStep f x).1).prevIm = s.prevIm := by cases f <;> rfl
@[simp] theorem State.firStep_sHold (s : State) (f : FirId) (x : Sample) : ((s.firStep f x).1).sHold = s.sHold := by cases f <;> rfl
@[simp] theorem State.firStep_aHold (s : State) (f : FirId) (x : Sample) : ((s.firStep f x).1).aHold = s.aHold := by cases f <;> rfl
@[simp] theorem State.firStep_seq (s : State) (f : FirId) (x : Sample) : ((s.firStep f x).1).seq = s.seq := by cases f <;> rfl
@[simp] theorem State.firStep_stop (s : State) (f : FirId) (x : Sample) : ((s.firStep f x).1).stop = s.stop := by cases f <;> rfl
@[simp] theorem State.firStep_capPort (s : State) (f : FirId) (x : Sample) : ((s.firStep f x).1).capPort = s.capPort := by cases f <;> rfl
@[simp] theorem State.firStep_playPort (s : State) (f : FirId) (x : Sample) : ((s.firStep f x).1).playPort = s.playPort := by cases f <;> rfl
@[simp] theorem State.firStep_hostPort (s : State) (f : FirId) (x : Sample) : ((s.firStep f x).1).hostPort = s.hostPort := by cases f <;> rfl
@[simp] theorem State.firStep_schedule (s : State) (f : FirId) (x : Sample) : ((s.firStep f x).1).schedule = s.schedule := by cases f <;> rfl
@[simp] theorem State.firStep_issuer (s : State) (f : FirId) (x : Sample) : ((s.firStep f x).1).issuer = s.issuer := by cases f <;> rfl
@[simp] theorem State.firStep_reply (s : State) (f : FirId) (x : Sample) : ((s.firStep f x).1).reply = s.reply := by cases f <;> rfl

@[simp] theorem State.pipe_cfg (s : State) (x : Sample) : (s.pipe x).1.cfg = s.cfg := rfl
@[simp] theorem State.pipe_inb (s : State) (x : Sample) : (s.pipe x).1.inb = s.inb := rfl
@[simp] theorem State.pipe_outb (s : State) (x : Sample) : (s.pipe x).1.outb = s.outb := rfl
@[simp] theorem State.pipe_sHold (s : State) (x : Sample) : (s.pipe x).1.sHold = s.sHold := rfl
@[simp] theorem State.pipe_aHold (s : State) (x : Sample) : (s.pipe x).1.aHold = s.aHold := rfl
@[simp] theorem State.pipe_seq (s : State) (x : Sample) : (s.pipe x).1.seq = s.seq := rfl
@[simp] theorem State.pipe_stop (s : State) (x : Sample) : (s.pipe x).1.stop = s.stop := rfl
@[simp] theorem State.pipe_capPort (s : State) (x : Sample) : (s.pipe x).1.capPort = s.capPort := rfl
@[simp] theorem State.pipe_playPort (s : State) (x : Sample) : (s.pipe x).1.playPort = s.playPort := rfl
@[simp] theorem State.pipe_hostPort (s : State) (x : Sample) : (s.pipe x).1.hostPort = s.hostPort := rfl
@[simp] theorem State.pipe_schedule (s : State) (x : Sample) : (s.pipe x).1.schedule = s.schedule := rfl
@[simp] theorem State.pipe_issuer (s : State) (x : Sample) : (s.pipe x).1.issuer = s.issuer := rfl
@[simp] theorem State.pipe_reply (s : State) (x : Sample) : (s.pipe x).1.reply = s.reply := rfl
@[simp] theorem State.pipe_quad (s : State) (x : Sample) : (s.pipe x).1.quad = s.quad + 1 := rfl

/-! `State.reconstruct` -/

@[simp] theorem State.reconstruct_cfg (s : State) : s.reconstruct.cfg = s.cfg := rfl
@[simp] theorem State.reconstruct_capPort (s : State) : s.reconstruct.capPort = s.capPort := rfl
@[simp] theorem State.reconstruct_playPort (s : State) : s.reconstruct.playPort = s.playPort := rfl
@[simp] theorem State.reconstruct_hostPort (s : State) : s.reconstruct.hostPort = s.hostPort := rfl
@[simp] theorem State.reconstruct_schedule (s : State) : s.reconstruct.schedule = s.schedule := rfl
@[simp] theorem State.reconstruct_issuer (s : State) : s.reconstruct.issuer = s.issuer := rfl
@[simp] theorem State.reconstruct_reply (s : State) : s.reconstruct.reply = s.reply := rfl
@[simp] theorem State.reconstruct_inb (s : State) : s.reconstruct.inb = (State.construct s.cfg).inb := rfl
@[simp] theorem State.reconstruct_outb (s : State) : s.reconstruct.outb = (State.construct s.cfg).outb := rfl
@[simp] theorem State.reconstruct_quad (s : State) : s.reconstruct.quad = (State.construct s.cfg).quad := rfl
@[simp] theorem State.reconstruct_prevRe (s : State) : s.reconstruct.prevRe = (State.construct s.cfg).prevRe := rfl
@[simp] theorem State.reconstruct_prevIm (s : State) : s.reconstruct.prevIm = (State.construct s.cfg).prevIm := rfl
@[simp] theorem State.reconstruct_wI (s : State) : s.reconstruct.wI = (State.construct s.cfg).wI := rfl
@[simp] theorem State.reconstruct_wQ (s : State) : s.reconstruct.wQ = (State.construct s.cfg).wQ := rfl
@[simp] theorem State.reconstruct_wO (s : State) : s.reconstruct.wO = (State.construct s.cfg).wO := rfl
@[simp] theorem State.reconstruct_sHold (s : State) : s.reconstruct.sHold = (State.construct s.cfg).sHold := rfl
@[simp] theorem State.reconstruct_aHold (s : State) : s.reconstruct.aHold = (State.construct s.cfg).aHold := rfl
@[simp] theorem State.reconstruct_seq (s : State) : s.reconstruct.seq = (State.construct s.cfg).seq := rfl
@[simp] theorem State.reconstruct_stop (s : State) : s.reconstruct.stop = (State.construct s.cfg).stop := rfl

/-! Ring flags -/

@[simp] theorem Ring.setOvf_slots (r : Ring) : r.setOvf.slots = r.slots := rfl
@[simp] theorem Ring.setOvf_head (r : Ring) : r.setOvf.head = r.head := rfl
@[simp] theorem Ring.setOvf_tail (r : Ring) : r.setOvf.tail = r.tail := rfl
@[simp] theorem Ring.setOvf_ovf (r : Ring) : r.setOvf.ovf = true := rfl
@[simp] theorem Ring.setOvf_unf (r : Ring) : r.setOvf.unf = r.unf := rfl
@[simp] theorem Ring.setUnf_slots (r : Ring) : r.setUnf.slots = r.slots := rfl
@[simp] theorem Ring.setUnf_head (r : Ring) : r.setUnf.head = r.head := rfl
@[simp] theorem Ring.setUnf_tail (r : Ring) : r.setUnf.tail = r.tail := rfl
@[simp] theorem Ring.setUnf_ovf (r : Ring) : r.setUnf.ovf = r.ovf := rfl
@[simp] theorem Ring.setUnf_unf (r : Ring) : r.setUnf.unf = true := rfl

end Sys2Proof.Machine
end

