-- ==== Sys2Proof/Laws/Slots.lean ====
section
/-! SUPPORT. The laws of a slot array: a read after a write, and the canonical form kept by every operation on it. -/

namespace Sys2Proof.Machine

theorem Slots.read_write_same (m : Slots) (a : Nat) (v : Sample) : (m.write a v).read a = some v := by
  induction m with
  | nil => simp [Slots.write, Slots.read]
  | cons p m ih =>
    obtain ⟨k, w⟩ := p
    simp only [Slots.write]
    split_ifs with h1 h2
    · simp [Slots.read]
    · simp [Slots.read]
    · simp [Slots.read, h2, ih]

theorem Slots.read_write_other (m : Slots) {a b : Nat} (v : Sample) (h : b ≠ a) : (m.write a v).read b = m.read b := by
  induction m with
  | nil => simp [Slots.write, Slots.read, h]
  | cons p m ih =>
    obtain ⟨k, w⟩ := p
    simp only [Slots.write]
    split_ifs with h1 h2
    · simp [Slots.read, h]
    · subst h2; simp [Slots.read, h]
    · simp [Slots.read, ih]

theorem Slots.read_write (m : Slots) (a b : Nat) (v : Sample) :
    (m.write a v).read b = if b = a then some v else m.read b := by
  split_ifs with h
  · subst h; exact m.read_write_same b v
  · exact m.read_write_other v h

/-- A slot listed after a write is the one written or was listed before. -/
theorem Slots.mem_write {m : Slots} {a : Nat} {v : Sample} {p : Nat × Sample} (h : p ∈ m.write a v) :
    p = (a, v) ∨ p ∈ m := by
  induction m with
  | nil => simpa [Slots.write] using h
  | cons q m ih =>
    obtain ⟨k, w⟩ := q
    simp only [Slots.write] at h
    split_ifs at h with h1 h2
    · simpa using h
    · rcases List.mem_cons.mp h with h | h
      · exact .inl h
      · exact .inr (List.mem_cons_of_mem _ h)
    · rcases List.mem_cons.mp h with h | h
      · exact .inr (h ▸ List.mem_cons_self)
      · exact (ih h).imp_right (List.mem_cons_of_mem _)

theorem Slots.write_wf {m : Slots} (h : m.wf) (a : Nat) (v : Sample) : (m.write a v).wf := by
  induction m with
  | nil => exact List.pairwise_singleton _ _
  | cons p m ih =>
    obtain ⟨k, w⟩ := p
    obtain ⟨hk, hm⟩ := List.pairwise_cons.mp h
    simp only [Slots.write]
    split_ifs with h1 h2
    · refine List.pairwise_cons.mpr ⟨?_, h⟩
      intro q hq
      rcases List.mem_cons.mp hq with rfl | hq
      · exact h1
      · exact h1.trans (hk q hq)
    · subst h2; exact List.pairwise_cons.mpr ⟨hk, hm⟩
    · refine List.pairwise_cons.mpr ⟨?_, ih hm⟩
      intro q hq
      rcases Slots.mem_write hq with rfl | hq
      · show k < a; omega
      · exact hk q hq

theorem Slots.prefilled_wf (pre : Nat) : (Slots.prefilled pre).wf := by
  unfold Slots.prefilled Slots.wf
  rw [List.pairwise_map]
  exact List.pairwise_lt_range

theorem Slots.mem_prefilled {pre : Nat} {p : Nat × Sample} (h : p ∈ Slots.prefilled pre) : p.1 < pre ∧ p.2 = posZero := by
  obtain ⟨j, hj, rfl⟩ := List.mem_map.mp h
  exact ⟨List.mem_range.mp hj, rfl⟩

/-- A slot that is listed reads as some Sample, and one that is not reads as none. -/
theorem Slots.read_isSome (m : Slots) (a : Nat) : (m.read a).isSome ↔ ∃ v, (a, v) ∈ m := by
  induction m with
  | nil => simp [Slots.read]
  | cons p m ih =>
    obtain ⟨k, w⟩ := p
    by_cases h : a = k
    · subst h; simp only [Slots.read, if_true]; exact ⟨fun _ => ⟨w, List.mem_cons_self⟩, fun _ => rfl⟩
    · simp [Slots.read, h, ih]

theorem Slots.read_mem {m : Slots} {a : Nat} {v : Sample} (h : m.read a = some v) : (a, v) ∈ m := by
  induction m with
  | nil => simp [Slots.read] at h
  | cons p m ih =>
    obtain ⟨k, w⟩ := p
    simp only [Slots.read] at h
    split_ifs at h with hk
    · obtain rfl := Option.some.inj h
      subst hk; exact List.mem_cons_self
    · exact List.mem_cons_of_mem _ (ih h)

theorem Slots.read_prefilled {pre j : Nat} (h : j < pre) : (Slots.prefilled pre).read j = some posZero := by
  have hs : ((Slots.prefilled pre).read j).isSome :=
    (Slots.read_isSome _ _).mpr ⟨posZero, List.mem_map.mpr ⟨j, List.mem_range.mpr h, rfl⟩⟩
  obtain ⟨v, hv⟩ := Option.isSome_iff_exists.mp hs
  have h2 : v = posZero := (Slots.mem_prefilled (Slots.read_mem hv)).2
  rw [hv, h2]

theorem Slots.read_prefilled_ge {pre j : Nat} (h : pre ≤ j) : (Slots.prefilled pre).read j = none := by
  rw [← Option.not_isSome_iff_eq_none, Slots.read_isSome]
  rintro ⟨v, hv⟩
  exact absurd (Slots.mem_prefilled hv).1 (by simpa using h)

/-- The slot arrays of a freshly constructed machine are canonical. -/
theorem State.construct_canonical (c : Cfg) : (State.construct c).inb.slots.wf ∧ (State.construct c).outb.slots.wf :=
  ⟨Slots.prefilled_wf _, Slots.prefilled_wf _⟩

/-- A push keeps the canonical form. -/
theorem Ring.push_canonical {cap : Nat} {r : Ring} (h : r.slots.wf) (v : Sample) : (r.push cap v).1.slots.wf := by
  unfold Ring.push
  split_ifs
  · exact h
  · exact Slots.write_wf h _ _

/-- A pop keeps the canonical form. -/
theorem Ring.pop_canonical {cap : Nat} {r r' : Ring} {v : Option Sample} (h : r.slots.wf)
    (hp : r.pop cap = .ok (r', v)) : r'.slots.wf := by
  unfold Ring.pop at hp
  split_ifs at hp
  · cases hp; exact h
  · split at hp <;> cases hp
    exact h

end Sys2Proof.Machine
end

