-- ==== Sys2Proof/Laws/Ops.lean ====
section
/-! SUPPORT. One lemma per shared operation that says everything it can do, and one for `exec` and `step`: proofs cite
these and do not unfold the operations. -/

namespace Sys2Proof.Machine

theorem next_eq_next {a t : State} : (.next a : Host.Outcome State Fault Refusal) = .next t ↔ t = a :=
  ⟨fun h => by cases h; rfl, fun h => h ▸ rfl⟩

theorem guarded_admitted {i : Instr} {s : State} {k : Host.Outcome State Fault Refusal}
    (h : admits s.issuer s.seq i = true) : guarded i s k = k := by simp [guarded, h]

theorem guarded_refused {i : Instr} {s : State} {k : Host.Outcome State Fault Refusal}
    (h : admits s.issuer s.seq i = false) : guarded i s k = .next (s.answer .refused) := by simp [guarded, h]

theorem guarded_next {i : Instr} {s t : State} {k : Host.Outcome State Fault Refusal} :
    guarded i s k = .next t ↔
      (admits s.issuer s.seq i = false ∧ t = s.answer .refused) ∨ (admits s.issuer s.seq i = true ∧ k = .next t) := by
  cases h : admits s.issuer s.seq i <;> simp [guarded, h, eq_comm]

/-- What a push does: rejected with the flag set where the buffer is full, else stored (40_ring_buffer.md R111). -/
theorem Ring.push_cases (cap : Nat) (r : Ring) (v : Sample) :
    (r.occ cap = cap ∧ r.push cap v = (r.setOvf, false)) ∨
      (r.occ cap ≠ cap ∧
        r.push cap v =
          ({ r with slots := r.slots.write (slotOf cap r.tail) v, tail := nextIndex cap r.tail }, true)) := by
  by_cases h : r.occ cap = cap
  · exact .inl ⟨h, by simp [Ring.push, h]⟩
  · exact .inr ⟨h, by simp [Ring.push, h]⟩

/-- What a pop does: the flag set where the buffer is empty, the Sample of the head's slot where one was written there, a
fault where none was (40_ring_buffer.md R112). -/
theorem Ring.pop_cases (cap : Nat) (r : Ring) :
    (r.head = r.tail ∧ r.pop cap = .ok (r.setUnf, none)) ∨
      (r.head ≠ r.tail ∧ ∃ v, r.slots.read (slotOf cap r.head) = some v ∧
        r.pop cap = .ok ({ r with head := nextIndex cap r.head }, some v)) ∨
      (r.head ≠ r.tail ∧ r.slots.read (slotOf cap r.head) = none ∧ r.pop cap = .error .unwrittenSlot) := by
  by_cases h : r.head = r.tail
  · exact .inl ⟨h, by simp [Ring.pop, Ring.isEmpty, h]⟩
  · cases hv : r.slots.read (slotOf cap r.head) with
    | none => exact .inr (.inr ⟨h, rfl, by simp [Ring.pop, Ring.isEmpty, h, hv]⟩)
    | some v => exact .inr (.inl ⟨h, v, rfl, by simp [Ring.pop, Ring.isEmpty, h, hv]⟩)

/-- What an admitted operation does when it gives a next state. -/
def Effect : Instr → State → State → Prop
  | .sysReset, s, t => t = if s.cfg.ok then s.reconstruct.answer (.ok []) else s.answer .refused
  | .sysStart, s, t => t = if s.seq = .ready then { s with seq := .fetch }.answer (.ok []) else s.answer .refused
  | .sysStop, s, t => t = { s with stop := true }.answer (.ok [])
  | .sysStatus, s, t => t = s.answer (.ok [s.status.zeroExtend 32])
  | .rbPushIn v, s, t => t = s.pushAnswered .ingress v
  | .rbPopIn, s, t => s.popAnswered .ingress = .next t
  | .rbEmptyIn, s, t => t = s.emptyAnswered .ingress
  | .rbPushOut v, s, t => t = s.pushAnswered .egress v
  | .rbPopOut, s, t => s.popAnswered .egress = .next t
  | .rbEmptyOut, s, t => t = s.emptyAnswered .egress
  | .ddcMix x, s, t => t = (s.mixStep x).1.answer (.ok [(s.mixStep x).2.1, (s.mixStep x).2.2])
  | .firStepI x, s, t => t = s.firAnswered .i x
  | .firStepQ x, s, t => t = s.firAnswered .q x
  | .firStepO x, s, t => t = s.firAnswered .o x
  | .discStep re0 im0, s, t => t = (s.discStep re0 im0).1.answer (.ok [(s.discStep re0 im0).2])
  | .loopFetch, s, t =>
    (s.stop = true ∧ t = { s.noAnswer with seq := .halted }) ∨
      (s.stop = false ∧ s.inb.head = s.inb.tail ∧ t = s.noAnswer) ∨
      (s.stop = false ∧ s.inb.head ≠ s.inb.tail ∧
        ∃ v, s.inb.slots.read (slotOf (s.cap .ingress) s.inb.head) = some v ∧
          t = { s.noAnswer with
            inb := { s.inb with head := nextIndex (s.cap .ingress) s.inb.head }, sHold := v, seq := .compute })
  | .loopCompute, s, t => t = { (s.pipe s.sHold).1.noAnswer with aHold := (s.pipe s.sHold).2, seq := .emit }
  | .loopEmit, s, t =>
    t = { s.noAnswer with outb := (s.outb.push (s.cap .egress) s.aHold).1, seq := .fetch }

/-- What an admitted `LOOP.FETCH` gives in its three branches, and its fault (44_processing_loop.md R181). -/
theorem loopFetch_next (s t : State) (h : admits s.issuer s.seq .loopFetch = true) :
    execLoopFetch s = .next t ↔ Effect .loopFetch s t := by
  unfold execLoopFetch
  rw [guarded_admitted h]
  cases hs : s.stop with
  | true => rw [if_pos rfl, next_eq_next]; simp [Effect, hs]
  | false =>
    rcases Ring.pop_cases (s.cap .ingress) s.inb with ⟨he, hp⟩ | ⟨he, v, hv, hp⟩ | ⟨he, hv, hp⟩
    · have : s.inb.isEmpty = true := decide_eq_true he
      rw [if_neg (by decide), if_pos this, next_eq_next]; simp [Effect, hs, he]
    · have : s.inb.isEmpty = false := decide_eq_false he
      rw [if_neg (by decide), this, if_neg (by decide), hp]
      exact next_eq_next.trans ⟨fun h => .inr (.inr ⟨hs, he, v, hv, h⟩), fun h => by
        rcases h with ⟨h, _⟩ | ⟨_, h, _⟩ | ⟨_, _, v', hv', h⟩
        · rw [hs] at h; cases h
        · exact absurd h he
        · rw [hv] at hv'; cases hv'; exact h⟩
    · have : s.inb.isEmpty = false := decide_eq_false he
      rw [if_neg (by decide), this, if_neg (by decide), hp]
      refine ⟨fun h => (nomatch h), fun h => ?_⟩
      rcases h with ⟨h, _⟩ | ⟨_, h, _⟩ | ⟨_, _, v', hv', h⟩
      · rw [hs] at h; cases h
      · exact absurd h he
      · rw [hv] at hv'; cases hv'

/-- What `exec` does when it gives a next state: the operation was not admitted and is answered `REFUSED`, or it was and
has its effect. -/
theorem exec_next {i : Instr} {s t : State} :
    exec i s = .next t ↔
      (admits s.issuer s.seq i = false ∧ t = s.answer .refused) ∨
        (admits s.issuer s.seq i = true ∧ Effect i s t) := by
  cases i with
  | loopFetch =>
    cases h : admits s.issuer s.seq .loopFetch with
    | false =>
      show execLoopFetch s = _ ↔ _
      rw [execLoopFetch, guarded_refused h, next_eq_next]; simp
    | true => exact (loopFetch_next s t h).trans ⟨fun e => .inr ⟨rfl, e⟩, fun e => e.elim (fun e => by cases e.1) (·.2)⟩
  | rbPopIn => exact guarded_next
  | rbPopOut => exact guarded_next
  | _ => exact guarded_next.trans (or_congr_right (and_congr_right fun _ => next_eq_next))

/-- An operation that is not admitted is answered `REFUSED` and changes nothing else (30_encoding.md R100). -/
theorem exec_unadmitted {i : Instr} {s : State} (h : admits s.issuer s.seq i = false) :
    exec i s = .next (s.answer .refused) := exec_next.mpr (.inl ⟨h, rfl⟩)

/-- No operation is refused a meaning. -/
theorem exec_ne_refused (i : Instr) (s : State) (r : Refusal) : exec i s ≠ .refused r := by
  cases i with
  | loopFetch =>
    show execLoopFetch s ≠ _
    unfold execLoopFetch guarded
    repeat' split
    all_goals simp
  | rbPopIn =>
    show execRbPopIn s ≠ _
    unfold execRbPopIn guarded State.popAnswered
    repeat' split
    all_goals simp
  | rbPopOut =>
    show execRbPopOut s ≠ _
    unfold execRbPopOut guarded State.popAnswered
    repeat' split
    all_goals simp
  | _ => simp only [exec, execSysReset, execSysStart, execSysStop, execSysStatus, execRbPushIn, execRbEmptyIn, execRbPushOut,
      execRbEmptyOut, execDdcMix, execFirStepI, execFirStepQ, execFirStepO, execDiscStep, execLoopCompute, execLoopEmit, guarded]
         split <;> simp

/-- An operation leaves the ports and the schedule as they are: taking a command off a port and ending a turn are the
step's work. -/
theorem exec_interface {i : Instr} {s t : State} (h : exec i s = .next t) :
    t.schedule = s.schedule ∧ t.capPort = s.capPort ∧ t.playPort = s.playPort ∧ t.hostPort = s.hostPort := by
  have pop (rb : RingId) (h : s.popAnswered rb = .next t) :
      t.schedule = s.schedule ∧ t.capPort = s.capPort ∧ t.playPort = s.playPort ∧ t.hostPort = s.hostPort := by
    unfold State.popAnswered at h
    split at h <;> cases h <;> cases rb <;> exact ⟨rfl, rfl, rfl, rfl⟩
  have push (rb : RingId) (v : Sample) : (s.pushAnswered rb v).schedule = s.schedule ∧
      (s.pushAnswered rb v).capPort = s.capPort ∧ (s.pushAnswered rb v).playPort = s.playPort ∧
      (s.pushAnswered rb v).hostPort = s.hostPort := by cases rb <;> exact ⟨rfl, rfl, rfl, rfl⟩
  rcases exec_next.mp h with ⟨_, rfl⟩ | ⟨_, he⟩
  · exact ⟨rfl, rfl, rfl, rfl⟩
  cases i with
  | sysReset => cases he; split <;> exact ⟨rfl, rfl, rfl, rfl⟩
  | sysStart => cases he; split <;> exact ⟨rfl, rfl, rfl, rfl⟩
  | rbPopIn => exact pop _ he
  | rbPopOut => exact pop _ he
  | rbPushIn v => cases he; exact push _ _
  | rbPushOut v => cases he; exact push _ _
  | loopFetch =>
    rcases he with ⟨_, rfl⟩ | ⟨_, _, rfl⟩ | ⟨_, _, _, _, rfl⟩ <;> exact ⟨rfl, rfl, rfl, rfl⟩
  | _ => cases he; exact ⟨rfl, rfl, rfl, rfl⟩

theorem endStep_next {o : Host.Outcome State Fault Refusal} {t : State} :
    endStep o = .next t ↔ ∃ u, o = .next u ∧ t = u.endTurn := by
  cases o <;> simp [endStep, eq_comm]

/-- What a step does when it gives a next state; in each case the turn is over. -/
theorem step_next {s t : State} :
    step s = .next t ↔
      (∃ i u v, s.fetch = .command i u ∧ exec i u = .next v ∧ t = v.endTurn) ∨
        (∃ u, s.fetch = .reserved u ∧ t = (u.answer .refused).endTurn) ∨ ∃ u, s.fetch = .nothing u ∧ t = u.endTurn := by
  unfold step
  cases s.fetch <;> simp [endStep_next, @eq_comm _ t]

/-- What the next operation is: a LOOP step by PROC, or the front of the port of an external agent. -/
theorem fetch_cases (s : State) :
    (s.issuer = .proc ∧
      ((∃ i, s.seq.loopStep = some i ∧ s.fetch = .command i s.noAnswer) ∨
        (s.seq.loopStep = none ∧ s.fetch = .nothing s.noAnswer))) ∨
      (s.issuer ≠ .proc ∧
        ((∃ i rest, decode (s.port s.issuer) = .instr i rest ∧
            s.fetch = .command i (s.noAnswer.setPort s.issuer rest)) ∨
          (∃ b rest, decode (s.port s.issuer) = .reserved b rest ∧
            s.fetch = .reserved (s.noAnswer.setPort s.issuer rest)) ∨
          (decode (s.port s.issuer) = .incomplete ∧ s.fetch = .nothing s.noAnswer))) := by
  have hport (a : Agent) : s.noAnswer.port a = s.port a := by cases a <;> rfl
  unfold State.fetch
  cases ha : s.issuer with
  | proc =>
    left
    refine ⟨rfl, ?_⟩
    simp only [State.noAnswer_seq]
    cases h : s.seq.loopStep <;> simp
  | _ =>
    right
    refine ⟨by decide, ?_⟩
    simp only [hport]
    cases h : decode (s.port _) <;> simp

end Sys2Proof.Machine
end

