-- ==== Sys2Proof/Laws/PerInstr.lean ====
section
/-! SUPPORT. A family of statements about every instruction as syntax: the format its command byte alone decides
(30_encoding.md R97), one lemma per constructor. -/

namespace Sys2Proof.Laws.Format

/-- The command byte is one of the eighteen operation bytes, `unit`, `inst` and `fn` are read back from it, and the
encoding has the length the command byte decides (30_encoding.md R91 to R97). -/
def Statement (i : Instr) : Prop :=
  i.cmdByte ∈ Machine.operationBytes ∧
    (unitField i.cmdByte, instField i.cmdByte, fnField i.cmdByte) = i.fields ∧
    (encode i).length = commandLength i.cmdByte

theorem length_encode (i : Instr) : (encode i).length = 1 + 4 * i.operands.length := by
  cases i <;> rfl

/-- The three fields of a command byte are read back from it. -/
theorem fields_cmdByte (i : Instr) : (unitField i.cmdByte, instField i.cmdByte, fnField i.cmdByte) = i.fields := by
  have key (u : BitVec 3) (n : BitVec 2) (f : BitVec 3) :
      (unitField (u ++ n ++ f), instField (u ++ n ++ f), fnField (u ++ n ++ f)) = (u, n, f) := by
    revert u n f; decide
  exact key _ _ _

theorem sysReset : Statement .sysReset := ⟨by decide, by decide, rfl⟩
theorem sysStart : Statement .sysStart := ⟨by decide, by decide, rfl⟩
theorem sysStop : Statement .sysStop := ⟨by decide, by decide, rfl⟩
theorem sysStatus : Statement .sysStatus := ⟨by decide, by decide, rfl⟩
theorem rbPushIn (v : Sample) : Statement (.rbPushIn v) := ⟨show (Instr.rbPushIn 0).cmdByte ∈ _ by decide, fields_cmdByte _,
  (length_encode _).trans (show 5 = commandLength (Instr.rbPushIn 0).cmdByte by decide)⟩
theorem rbPopIn : Statement .rbPopIn := ⟨by decide, by decide, rfl⟩
theorem rbEmptyIn : Statement .rbEmptyIn := ⟨by decide, by decide, rfl⟩
theorem rbPushOut (v : Sample) : Statement (.rbPushOut v) := ⟨show (Instr.rbPushOut 0).cmdByte ∈ _ by decide, fields_cmdByte _,
  (length_encode _).trans (show 5 = commandLength (Instr.rbPushOut 0).cmdByte by decide)⟩
theorem rbPopOut : Statement .rbPopOut := ⟨by decide, by decide, rfl⟩
theorem rbEmptyOut : Statement .rbEmptyOut := ⟨by decide, by decide, rfl⟩
theorem ddcMix (x : Sample) : Statement (.ddcMix x) := ⟨show (Instr.ddcMix 0).cmdByte ∈ _ by decide, fields_cmdByte _,
  (length_encode _).trans (show 5 = commandLength (Instr.ddcMix 0).cmdByte by decide)⟩
theorem firStepI (x : Sample) : Statement (.firStepI x) := ⟨show (Instr.firStepI 0).cmdByte ∈ _ by decide, fields_cmdByte _,
  (length_encode _).trans (show 5 = commandLength (Instr.firStepI 0).cmdByte by decide)⟩
theorem firStepQ (x : Sample) : Statement (.firStepQ x) := ⟨show (Instr.firStepQ 0).cmdByte ∈ _ by decide, fields_cmdByte _,
  (length_encode _).trans (show 5 = commandLength (Instr.firStepQ 0).cmdByte by decide)⟩
theorem firStepO (x : Sample) : Statement (.firStepO x) := ⟨show (Instr.firStepO 0).cmdByte ∈ _ by decide, fields_cmdByte _,
  (length_encode _).trans (show 5 = commandLength (Instr.firStepO 0).cmdByte by decide)⟩
theorem discStep (re0 im0 : Sample) : Statement (.discStep re0 im0) := ⟨show (Instr.discStep 0 0).cmdByte ∈ _ by decide, fields_cmdByte _,
  (length_encode _).trans (show 9 = commandLength (Instr.discStep 0 0).cmdByte by decide)⟩
theorem loopFetch : Statement .loopFetch := ⟨by decide, by decide, rfl⟩
theorem loopCompute : Statement .loopCompute := ⟨by decide, by decide, rfl⟩
theorem loopEmit : Statement .loopEmit := ⟨by decide, by decide, rfl⟩

end Sys2Proof.Laws.Format
end

