-- ==== Sys2Proof/Tests/Slice0.lean ====
section
/-! SUPPORT. Tests against the vectors of 95_test_vectors.md (named in each comment), the ill-formed configurations, words
written out from the encoding tables, and a witness for the hypotheses of every statement. -/

namespace Sys2Proof.Tests

open Sys2Proof.Machine

/-! Helpers: small states and what an outcome shows -/

def next? : Host.Outcome State Fault Refusal → Option State
  | .next t => some t
  | _ => none

def isFault : Host.Outcome State Fault Refusal → Bool
  | .fault _ => true
  | _ => false

def reply? (o : Host.Outcome State Fault Refusal) : Option Response := (next? o).bind (·.reply)

def one : Sample := 0x3F800000#32

/-- One tap of 1.0 in each filter, `L = 1` (the configuration of 95_test_vectors.md 2.5 and P5). -/
def cfgPass : Cfg := { Config.reference with
  firI := ⟨1, [one], 0⟩, firQ := ⟨1, [one], 0⟩, firO := ⟨1, [one], 0⟩
  latency := 1, ringIn := .ofLatency 1, ringOut := .ofLatency 1 }

/-- Right after reset, with HOST's turn next. -/
def sPass : State := { State.construct cfgPass with schedule := [.host] }

/-- `I` with `c = [0.25, 0.5, 0.25]` (95_test_vectors.md 2.3). -/
def sFir : State := { State.construct { Config.reference with
  firI := ⟨3, [0x3E800000#32, 0x3F000000#32, 0x3E800000#32], 0⟩ } with schedule := [.host] }

/-- A ring buffer holding these Samples from slot 0 on. -/
def ringOf (vs : List Sample) : Ring where
  slots := (List.range vs.length).zip vs
  head := 0
  tail := vs.length
  ovf := false
  unf := false

def asAgent (a : Agent) (s : State) : State := { s with schedule := [a] }

/-! Ill-formed configurations, one for each check of 00_scope.md R8 -/

theorem test_reference_ok : Config.reference.ok = true := by decide
theorem test_taps_even : FirCfg.tapsOk ⟨4, [0, 0, 0, 0], 0⟩ = false := by decide
theorem test_taps_zero : FirCfg.tapsOk ⟨0, [], 0⟩ = false := by decide
theorem test_coef_length : FirCfg.lengthOk ⟨3, [one], 0⟩ = false := by decide
theorem test_coef_infinite : FirCfg.finiteOk ⟨1, [0x7F800000#32], 0⟩ = false := by decide
theorem test_cap_zero : RingCfg.ok ⟨0, 0⟩ = false := by decide
theorem test_pre_over_cap : RingCfg.ok ⟨2, 3⟩ = false := by decide
theorem test_latency_zero : Cfg.ok { cfgPass with latency := 0 } = false := by decide
theorem test_fir_counts : Cfg.ok { cfgPass with firQ := ⟨2, [one, one], 0⟩ } = false := by decide
theorem test_ring_counts : Cfg.ok { cfgPass with ringOut := ⟨1, 2⟩ } = false := by decide
theorem test_k_zero : Cfg.ok { cfgPass with k := 0x80000000#32 } = false := by decide
theorem test_k_nan : Cfg.ok { cfgPass with k := 0x7FC00000#32 } = false := by decide
-- 1 / (2 * pi * 2^-131) is out of range, and so GAIN is not finite
theorem test_gain_infinite : Cfg.ok { cfgPass with k := 0x00040000#32 } = false := by decide

-- 00_scope.md R7: GAIN for K = 0.1; and by hand 1 / (2 * pi * -1) = -0.15915494 (0x3E22F983 with the sign)
theorem test_gain_reference : [Config.reference.gain, { Config.reference with k := 0xBF800000#32 }.gain] =
    [0x3FCBB7E4#32, 0xBE22F983#32] := by decide
theorem test_pre_full_ok : Cfg.ok { cfgPass with ringIn := ⟨2, 2⟩ } = true := by decide

/-! Decoding: words written out from 30_encoding.md R91 to R95 (`unit`, `inst`, `fn`), data words low byte first (R62) -/

theorem test_dec_sys : [decode [0b00000000#8], decode [0b00000001#8], decode [0b00000010#8], decode [0b00000011#8]] =
    [.instr .sysReset [], .instr .sysStart [], .instr .sysStop [], .instr .sysStatus []] := by decide

theorem test_dec_ring_in : [decode [0b00100000#8, 0x04#8, 0x03#8, 0x02#8, 0x01#8, 0xEE#8], decode [0b00100001#8],
    decode [0b00100010#8]] = [.instr (.rbPushIn 0x01020304#32) [0xEE#8], .instr .rbPopIn [], .instr .rbEmptyIn []] := by
  decide

theorem test_dec_ring_out : [decode [0b00101000#8, 0x04#8, 0x03#8, 0x02#8, 0x01#8], decode [0b00101001#8],
    decode [0b00101010#8]] = [.instr (.rbPushOut 0x01020304#32) [], .instr .rbPopOut [], .instr .rbEmptyOut []] := by
  decide

theorem test_dec_ddc : decode [0b01000000#8, 0x00#8, 0x00#8, 0x80#8, 0x3E#8] = .instr (.ddcMix 0x3E800000#32) [] := by
  decide

theorem test_dec_fir : [decode [0b01100000#8, 1, 2, 3, 4], decode [0b01101000#8, 1, 2, 3, 4],
    decode [0b01110000#8, 1, 2, 3, 4]] = [.instr (.firStepI 0x04030201#32) [], .instr (.firStepQ 0x04030201#32) [],
      .instr (.firStepO 0x04030201#32) []] := by decide

theorem test_dec_disc : decode [0b10000000#8, 1, 2, 3, 4, 5, 6, 7, 8] =
    .instr (.discStep 0x04030201#32 0x08070605#32) [] := by decide

theorem test_dec_loop : [decode [0b10100000#8], decode [0b10100001#8], decode [0b10100010#8]] =
    [.instr .loopFetch [], .instr .loopCompute [], .instr .loopEmit []] := by decide

-- T-DEC-3, 4, 6, 8, 10, 12, 14, 16, 17: reserved command bytes, one byte long
theorem test_dec_reserved : [0x04#8, 0x08#8, 0x23#8, 0x30#8, 0x41#8, 0x78#8, 0x88#8, 0xA3#8, 0xC0#8, 0xE0#8, 0xFF#8].all
    (fun b => decide (decode [b, 0x00#8] = .reserved b [0x00#8])) = true := by decide

theorem test_dec_incomplete : [decode [], decode [0x20#8, 1, 2, 3], decode [0x80#8, 1, 2, 3, 4, 5, 6, 7]] =
    [.incomplete, .incomplete, .incomplete] := by decide

-- the table's numbering of the whole command (R91): command byte on top
theorem test_table_word : [decodeTableWord 40 0x203F800000, decodeTableWord 72 0x803F800000BF800000, decodeTableWord 8 0x29,
    decodeTableWord 8 0x04, decodeTableWord 8 0x28] = [some (.rbPushIn one), some (.discStep one 0xBF800000#32),
      some .rbPopOut, none, some (.rbPushOut 0)] := by decide

/-! Arithmetic: 95_test_vectors.md T-FIR-6, T-DISC-2, T-DISC-9, T-DISC-10 and IEEE 754 corners worked by hand -/

theorem test_add_tie_to_even : Fp.fadd 0x3F800000#32 0x4B800000#32 = 0x4B800000#32 := by decide
theorem test_add_exact : Fp.fadd 0x40000000#32 0x4B800000#32 = 0x4B800001#32 := by decide
theorem test_add_signed_zeros : [Fp.fadd 0x00000000#32 0x80000000#32, Fp.fadd 0x80000000#32 0x80000000#32,
    Fp.fadd 0xBF800000#32 0x3F800000#32] = [0x00000000#32, 0x80000000#32, 0x00000000#32] := by decide
theorem test_sub_same : Fp.fsub 0x3F800000#32 0x3F800000#32 = 0x00000000#32 := by decide
theorem test_mul_gain_quarter_pi : Fp.fmul 0x3FCBB7E4#32 0x3F490FDB#32 = 0x3FA00000#32 := by decide
theorem test_mul_gain_atan_two : Fp.fmul 0x3FCBB7E4#32 0x3F8DB70D#32 = 0x3FE18BE7#32 := by decide
theorem test_mul_gain_atan_half : Fp.fmul 0x3FCBB7E4#32 0x3EED6338#32 = 0x3F3CE833#32 := by decide
theorem test_mul_overflow : Fp.fmul 0x7F000000#32 0xC0000000#32 = 0xFF800000#32 := by decide
theorem test_mul_subnormal : Fp.fmul 0x00800000#32 0x3F000000#32 = 0x00400000#32 := by decide
theorem test_mul_underflow_tie : Fp.fmul 0x00000001#32 0xBF000000#32 = 0x80000000#32 := by decide
theorem test_div_half : Fp.fdiv 0x40000000#32 0x40800000#32 = 0x3F000000#32 := by decide
theorem test_div_third : Fp.fdiv 0x3F800000#32 0x40400000#32 = 0x3EAAAAAB#32 := by decide
theorem test_div_by_zero : Fp.fdiv 0xBF800000#32 0x00000000#32 = 0xFF800000#32 := by decide
theorem test_atan_pinned : [Fp.fatan 0x80000000#32, Fp.fatan 0x7F800000#32, Fp.fatan 0xFF800000#32] =
    [0x80000000#32, 0x3FC90FDB#32, 0xBFC90FDB#32] := by decide

/-! System operations -/

-- T-SYS-1 with L = 1
theorem test_reset : (next? (exec .sysReset { sPass with quad := 3, stop := true, seq := .halted, wI := [one] })).map
    (fun t => (t.quad, t.stop, t.wI, t.status, t.reply)) =
    some (0#2, false, [0x00000000#32], 0x0000#16, some (.ok [])) := by decide

-- T-SYS-2
theorem test_reset_even_taps : (next? (exec .sysReset { sPass with
    quad := 3, cfg := { cfgPass with firI := ⟨4, [one, one, one, one], 0⟩ } })).map (fun t => (t.quad, t.reply)) =
    some (3#2, some .refused) := by decide

-- T-SYS-3, T-SYS-4
theorem test_start : (next? (exec .sysStart sPass)).map (fun t => (t.seq, t.reply)) = some (.fetch, some (.ok [])) := by
  decide
theorem test_start_again : (next? (exec .sysStart { sPass with seq := .emit })).map (fun t => (t.seq, t.reply)) =
    some (.emit, some .refused) := by decide

-- T-SYS-5
theorem test_stop : (next? (exec .sysStop { sPass with seq := .emit })).map (fun t => (t.stop, t.seq, t.reply)) =
    some (true, .emit, some (.ok [])) := by decide

-- T-SYS-8, T-SYS-9
theorem test_status_running : reply? (exec .sysStatus { sPass with seq := .emit, inb := { sPass.inb with ovf := true } }) =
    some (.ok [0x00000009#32]) := by decide
theorem test_status_halted : reply? (exec .sysStatus { sPass with
    seq := .halted, stop := true, inb := { sPass.inb with ovf := true },
    outb := { sPass.outb with ovf := true, unf := true } }) = some (.ok [0x0000006E#32]) := by decide

-- the code column of 30_encoding.md R98
theorem test_response_codes : [Response.ok [], .rejected, .empty, .refused].map Response.code = [0, 1, 2, 3] := by decide

/-! Ring buffers: `CAP = 4` -/

-- T-RB-3
theorem test_push_full : ((ringOf [0, 0, one, 0x40000000#32]).push 4 0x40400000#32) =
    ({ ringOf [0, 0, one, 0x40000000#32] with ovf := true }, false) := by decide

-- T-RB-14, T-RB-15
theorem test_push_wraps : [7, 0].map (fun t => (({ ringOf [one, one, one, one] with head := 5, tail := t }.push 4
    0x40C00000#32).1.tail, ({ ringOf [one, one, one, one] with head := 5, tail := t }.push 4 0x40C00000#32).1.slots.read
      (t % 4))) = [(0, some 0x40C00000#32), (1, some 0x40C00000#32)] := by decide

-- T-RB-16
theorem test_push_full_wrapped : ({ ringOf [one, one, one, one] with head := 5, tail := 1 }.push 4 0).2 = false := by decide

theorem test_push_in : (next? (exec (.rbPushIn one) (asAgent .cap sPass))).map (fun t => (t.inb, t.reply)) =
    some (ringOf [0, one], some (.ok [])) := by decide

-- T-RB-9, T-RB-10
theorem test_pop_in : (next? (exec .rbPopIn { sPass with inb := { ringOf [one] with head := 2, tail := 3 } })).map
    (fun t => (t.inb.head, t.reply)) = some (3, some (.ok [one])) := by decide
theorem test_pop_in_empty : (next? (exec .rbPopIn { sPass with inb := { ringOf [one] with head := 1 } })).map
    (fun t => (t.inb.unf, t.reply)) = some (true, some .empty) := by decide

-- T-RB-11, and a buffer that holds only pre-fill zeros
theorem test_empty_in : [{ sPass with inb := ringOf [] }, sPass].map (fun s => reply? (exec .rbEmptyIn s)) =
    [some (.ok [1#32]), some (.ok [0#32])] := by decide

-- Admission of 95_test_vectors.md 2.7: 0x28 on the playback port, on the host port in READY
theorem test_push_out_ports : [asAgent .play sPass, sPass].map (fun s => reply? (exec (.rbPushOut one) s)) =
    [some .refused, some (.ok [])] := by decide

-- P5 steps 11 and 19
theorem test_pop_out : [sPass, { sPass with outb := ringOf [] }].map
    (fun s => reply? (exec .rbPopOut (asAgent .play s))) = [some (.ok [0x00000000#32]), some .empty] := by decide

theorem test_empty_out : [Agent.play, Agent.cap].map (fun a => reply? (exec .rbEmptyOut (asAgent a sPass))) =
    [some (.ok [0#32]), some .refused] := by decide

theorem test_pop_unwritten_faults : isFault (exec .rbPopIn { sPass with inb := { ringOf [] with tail := 1 } }) = true := by
  decide

/-! Datapath -/

-- T-DDC-2 and the NaN corner case
theorem test_mix_row_one : (next? (exec (.ddcMix 0x3E800000#32) { sPass with quad := 1 })).map
    (fun t => (t.quad, t.reply)) = some (2#2, some (.ok [0x00000000#32, 0xBE800000#32])) := by decide
theorem test_mix_nan : reply? (exec (.ddcMix 0x7FC00000#32) { sPass with quad := 2 }) =
    some (.ok [0xFFC00000#32, 0x00000000#32]) := by decide

-- T-SYS-10
theorem test_mix_running : reply? (exec (.ddcMix one) { sPass with seq := .fetch }) = some .refused := by decide

-- T-FIR-1 (first step) and T-FIR-2 (third step)
theorem test_fir_i : (next? (exec (.firStepI one) sFir)).map (fun t => (t.wI, t.wQ, t.reply)) =
    some ([one, 0, 0], [0, 0, 0], some (.ok [0x3E800000#32])) := by decide
theorem test_fir_i_third : reply? (exec (.firStepI 0x40400000#32) { sFir with wI := [0x40000000#32, one, 0] }) =
    some (.ok [0x40000000#32]) := by decide

-- T-FIR-6 (third output): the order of the additions
theorem test_fir_q_order : reply? (exec (.firStepQ one) { sFir with
    cfg := { Config.reference with firQ := ⟨3, [one, one, one], 0⟩ }, wQ := [one, 0x4B800000#32, 0] }) =
    some (.ok [0x4B800001#32]) := by decide

-- T-FIR-4
theorem test_fir_o_single_tap : (next? (exec (.firStepO 0xBF800000#32) { sPass with
    cfg := { cfgPass with firO := ⟨1, [0x40000000#32], 0⟩ }, wO := [0x3F000000#32] })).map (fun t => (t.wO, t.reply)) =
    some ([0xBF800000#32], some (.ok [0xC0000000#32])) := by decide

-- T-DISC-1
theorem test_disc_first : (next? (exec (.discStep one 0) sPass)).map (fun t => (t.prevRe, t.prevIm, t.reply)) =
    some (one, 0x00000000#32, some (.ok [0x00000000#32])) := by decide

-- T-DISC-8, T-DISC-7: the fallback, and the sign of the folded step, before Atan
theorem test_disc_cross_dot : [(discCross one 0 0 one, discDot one 0 0 one),
    (discCross one 0 0xBF800000#32 one, discDot one 0 0xBF800000#32 one)] =
    [(one, 0x00000000#32), (one, 0xBF800000#32)] := by decide

/-! Processing loop -/

-- T-LOOP-1
theorem test_fetch : (next? (exec .loopFetch (asAgent .proc { sPass with
    seq := .fetch, inb := ringOf [0x3F000000#32, 0x3E800000#32] }))).map
    (fun t => (t.sHold, t.inb.contents 2, t.seq, t.reply)) =
    some (0x3F000000#32, [some 0x3E800000#32], .compute, none) := by decide

-- T-LOOP-2, T-LOOP-4: idle, and stop before emptiness
theorem test_fetch_idle_stop : [false, true].map (fun b => (next? (exec .loopFetch (asAgent .proc { sPass with
    seq := .fetch, stop := b, inb := ringOf [] }))).map (fun t => (t.seq, t.inb.unf))) =
    [some (.fetch, false), some (.halted, false)] := by decide

-- T-LOOP-5
theorem test_compute : (next? (exec .loopCompute (asAgent .proc { sPass with seq := .compute, sHold := 0x3F000000#32 }))).map
    (fun t => ([t.wI, t.wQ, t.wO], [t.aHold, t.prevRe, t.prevIm], t.quad, t.seq)) =
    some ([[0x3F000000#32], [0x00000000#32], [0x00000000#32]], [0x00000000#32, 0x3F000000#32, 0x00000000#32], 1#2, .emit) := by
  decide

-- T-LOOP-6, T-LOOP-7
theorem test_emit : [ringOf [0], ringOf [0, 0]].map (fun r => (next? (exec .loopEmit (asAgent .proc { sPass with
    seq := .emit, aHold := 0x3FA00000#32, outb := r }))).map (fun t => (t.outb.contents 2, t.outb.ovf, t.seq, t.reply))) =
    [some ([some 0, some 0x3FA00000#32], false, .fetch, none), some ([some 0, some 0], true, .fetch, none)] := by decide

/-! Steps -/

-- a reserved byte on the capture port, then RB.EMPTY IN behind it
theorem test_step_reserved : (next? (step { sPass with schedule := [.cap], capPort := [0xFF#8, 0x22#8] })).map
    (fun t => (t.capPort, t.reply)) = some ([0x22#8], some .refused) := by decide

-- T-LOOP-8: PROC has no step in READY, and its turn passes
theorem test_step_proc_ready : next? (step { sPass with schedule := [.proc] }) =
    some { sPass with schedule := [] } := by decide

-- every row of opcode_table.json runs as the first instruction after reset: none is refused
theorem test_table_rows_run : [(8, 0x00), (8, 0x01), (8, 0x02), (8, 0x03), (40, 0x2000000000), (8, 0x21), (8, 0x22),
    (40, 0x2800000000), (8, 0x29), (8, 0x2A), (40, 0x4000000000), (40, 0x6000000000), (40, 0x6800000000),
    (40, 0x7000000000), (72, 0x800000000000000000), (8, 0xA0), (8, 0xA1), (8, 0xA2)].all
    (fun p => (next? (step (State.reset.withFetchWord p.1 p.2))).isSome &&
      decide (reply? (step (State.reset.withFetchWord p.1 p.2)) ≠ some .refused)) = true := by decide

/-! Witnesses: for every statement with hypotheses, a concrete state and operands that meet them together, one for each
clause, at the values where clauses meet. A state with the invariant comes from `wit_inv`. -/

def sFetch : State := asAgent .proc { sPass with seq := .fetch }
def sFull : State := { sPass with inb := ringOf [one, 0], outb := ringOf [one, 0] }
def sEmpty : State := { sPass with inb := ringOf [], outb := ringOf [] }
def sOne : State := { sPass with inb := ringOf [one], outb := ringOf [one] }
def sEmptySchedule : State := { sPass with schedule := [] }
def sBadCfg : State := { sPass with cfg := { cfgPass with latency := 0 } }

theorem wit_ring_inv (vs : List Sample) (h : vs = [] ∨ vs = [one] ∨ vs = [one, 0]) : (ringOf vs).Inv 2 := by
  rcases h with rfl | rfl | rfl <;> exact ⟨by decide, by decide, by decide, by decide, by decide, by decide⟩

theorem wit_inv (s : State) (hc : s.cfg = cfgPass) (hi : s.inb.Inv 2) (ho : s.outb.Inv 2)
    (hw : s.wI.length = 1 ∧ s.wQ.length = 1 ∧ s.wO.length = 1) : s.Inv := by
  refine ⟨?_, ?_, ?_, ?_, ?_, ?_⟩ <;> rw [hc]
  exacts [by decide, hi, ho, hw.1, hw.2.1, hw.2.2]

theorem wit_inv_sOne : sOne.Inv :=
  wit_inv _ rfl (wit_ring_inv _ (.inr (.inl rfl))) (wit_ring_inv _ (.inr (.inl rfl))) (by decide)

theorem wit_inv_sEmpty : sEmpty.Inv :=
  wit_inv _ rfl (wit_ring_inv _ (.inl rfl)) (wit_ring_inv _ (.inl rfl)) (by decide)

theorem wit_inv_sFull : sFull.Inv :=
  wit_inv _ rfl (wit_ring_inv _ (.inr (.inr rfl))) (wit_ring_inv _ (.inr (.inr rfl))) (by decide)

theorem test_wit_EncodeOfDecode : decode [0x21#8, 0xEE#8] = .instr .rbPopIn [0xEE#8] := by decide

theorem test_wit_ReservedByteIsRefused : let s := { sPass with schedule := [.play, .cap], playPort := [0x04#8, 0x29#8] }
    s.schedule = .play :: [.cap] ∧ Agent.play ≠ .proc ∧ s.port .play = 0x04#8 :: [0x29#8] ∧ 0x04#8 ∉ operationBytes ∧
      0xA3#8 ∉ operationBytes ∧ 0xFF#8 ∉ operationBytes := by decide

theorem test_wit_StepRunsDecodedCommand : let s := { sPass with schedule := [.cap], capPort := [0x20#8, 0, 0, 0, 0x3F#8, 7] }
    s.schedule = .cap :: [] ∧ Agent.cap ≠ .proc ∧ decode (s.port .cap) = .instr (.rbPushIn 0x3F000000#32) [7] := by decide

theorem test_wit_StepRunsLoopPhase : let s := { sPass with schedule := [.proc, .host] }
    s.issuer = .proc ∧ sEmptySchedule.issuer = .proc ∧ { s with seq := .fetch }.seq = .fetch ∧ { s with seq := .compute }.seq = .compute ∧
      { s with seq := .emit }.seq = .emit ∧ s.seq = .ready ∧ { s with seq := .halted }.seq = .halted := by decide

theorem test_wit_UnadmittedCommandIsRefused : (Instr.rbPushOut one).cmdByte ∉ admittedBytes .play .ready ∧
    Instr.loopEmit.cmdByte ∉ admittedBytes .proc .fetch ∧ (Instr.ddcMix one).cmdByte ∉ admittedBytes .host .halted ∧
    Instr.sysStop.cmdByte ∉ admittedBytes .cap .emit := by decide

theorem test_wit_AdmittedCommandIsRefusedOnlyByRule :
    (Instr.sysStart.cmdByte ∈ admittedBytes .host .halted ∧
      ∃ t, exec .sysStart { sPass with seq := .halted } = .next t ∧ t.reply = some .refused) ∧
    (Instr.sysReset.cmdByte ∈ admittedBytes .host .ready ∧
      ∃ t, exec .sysReset sBadCfg = .next t ∧ t.reply = some .refused) :=
  ⟨⟨by decide, _, rfl, rfl⟩, by decide, _, rfl, rfl⟩

theorem test_wit_SysResetResult : (sBadCfg.issuer = .host ∧ sBadCfg.cfg.ok = false) ∧
    sPass.issuer = .host ∧ sPass.cfg.ok = true := by decide

theorem test_wit_SysStartResult : sPass.issuer = .host ∧ sPass.seq = .ready ∧ { sPass with seq := .fetch }.seq ≠ .ready ∧
    { sPass with stop := true }.stop = true := by decide

theorem test_wit_SysStopResult : sPass.issuer = .host ∧ sFetch.seq = .fetch := by decide

theorem test_wit_SysStatusResult : { sPass with seq := .halted }.issuer = .host := by decide

-- one slot free, and full
theorem test_wit_RbPushResult :
    ((asAgent .cap sOne).issuer = .cap ∧ 1 ≤ sOne.cfg.ringIn.cap ∧
      ((sOne.inb.tail : Int) - sOne.inb.head) % (2 * sOne.cfg.ringIn.cap) ≠ sOne.cfg.ringIn.cap ∧
      ((sFull.inb.tail : Int) - sFull.inb.head) % (2 * sFull.cfg.ringIn.cap) = sFull.cfg.ringIn.cap) ∧
    (sOne.issuer = .host ∧ sOne.seq = .ready ∧ 1 ≤ sOne.cfg.ringOut.cap ∧
      ((sOne.outb.tail : Int) - sOne.outb.head) % (2 * sOne.cfg.ringOut.cap) ≠ sOne.cfg.ringOut.cap ∧
      ((sFull.outb.tail : Int) - sFull.outb.head) % (2 * sFull.cfg.ringOut.cap) = sFull.cfg.ringOut.cap) := by decide

-- one Sample left, and empty
theorem test_wit_RbPopResult :
    (sOne.issuer = .host ∧ sOne.seq = .ready ∧ sOne.inb.head ≠ sOne.inb.tail ∧
      sOne.inb.slots.read (sOne.inb.head % sOne.cfg.ringIn.cap) = some one ∧ sEmpty.inb.head = sEmpty.inb.tail) ∧
    ((asAgent .play sOne).issuer = .play ∧ sOne.outb.head ≠ sOne.outb.tail ∧
      sOne.outb.slots.read (sOne.outb.head % sOne.cfg.ringOut.cap) = some one ∧ sEmpty.outb.head = sEmpty.outb.tail) := by
  decide

theorem test_wit_PopOfUnwrittenSlotFaults :
    let s := { sPass with inb := { ringOf [] with tail := 1 }, outb := { ringOf [] with tail := 1 } }
    s.inb.head ≠ s.inb.tail ∧ s.inb.slots.read (s.inb.head % s.cfg.ringIn.cap) = none ∧ s.issuer = .host ∧ s.seq = .ready ∧
      (asAgent .proc { s with seq := .fetch }).issuer = .proc ∧ { s with seq := .fetch }.stop = false ∧
      s.outb.head ≠ s.outb.tail ∧ s.outb.slots.read (s.outb.head % s.cfg.ringOut.cap) = none ∧
      (asAgent .play s).issuer = .play := by decide

theorem test_wit_RbEmptyResult : ((asAgent .cap sPass).issuer = .cap ∧ (asAgent .play sPass).issuer = .play) ∧
    sPass.issuer = .host ∧ sPass.seq = .ready := by decide

-- room, full, a Sample to pop, empty
theorem test_wit_ContentsBehaveAsQueue : (ringOf [one]).Inv 2 ∧ (ringOf [one, 0]).Inv 2 ∧ (ringOf []).Inv 2 ∧
    ((ringOf [one]).contents 2).length < 2 ∧ ((ringOf [one, 0]).contents 2).length = 2 ∧
    (ringOf [one]).contents 2 = some one :: [] ∧ (ringOf []).contents 2 = [] :=
  ⟨wit_ring_inv _ (.inr (.inl rfl)), wit_ring_inv _ (.inr (.inr rfl)), wit_ring_inv _ (.inl rfl), by decide⟩

theorem test_wit_RingRefinesQueue : (ringOf [one, 0]).Inv 2 ∧ (ringOf [one, 0]).contents 2 = [one, 0].map some :=
  ⟨wit_ring_inv _ (.inr (.inr rfl)), by decide⟩

theorem test_wit_DrainGivesContents : (ringOf [one, 0]).Inv 2 ∧ (ringOf []).Inv 2 :=
  ⟨wit_ring_inv _ (.inr (.inr rfl)), wit_ring_inv _ (.inl rfl)⟩

theorem test_wit_DdcMixResult : sPass.issuer = .host ∧ sPass.seq = .ready ∧ sPass.quad = 0 ∧ { sPass with quad := 1 }.quad = 1 ∧
    { sPass with quad := 2 }.quad = 2 ∧ { sPass with quad := 3 }.quad = 3 := by decide

theorem test_wit_MixIsRotation : Fp.isFinite 0x3E800000#32 = true := by decide

theorem test_wit_QuadrantAdvancesOnlyOnSamples :
    (∃ t, exec (.ddcMix one) { sPass with quad := 3 } = .next t ∧ (Instr.ddcMix one).cmdByte ∈ admittedBytes .host .ready ∧
      t.quad ≠ 3) ∧
    (∃ t, exec .sysReset { sPass with quad := 3 } = .next t ∧ t.quad ≠ 3) := ⟨⟨_, rfl, by decide⟩, _, rfl, by decide⟩

theorem test_wit_FirStepResult : (sFir.issuer = .host ∧ sFir.seq = .ready) ∧
    (sFir.cfg.firI.coef.length = sFir.cfg.firI.taps ∧ sFir.wI.length = sFir.cfg.firI.taps ∧ 1 ≤ sFir.cfg.firI.taps) ∧
    (sFir.cfg.firQ.coef.length = sFir.cfg.firQ.taps ∧ sFir.wQ.length = sFir.cfg.firQ.taps ∧ 1 ≤ sFir.cfg.firQ.taps) ∧
    (sFir.cfg.firO.coef.length = sFir.cfg.firO.taps ∧ sFir.wO.length = sFir.cfg.firO.taps ∧ 1 ≤ sFir.cfg.firO.taps) := by
  decide

theorem test_wit_FirHistoryIsLastInputs : 0 < (Config.reference.fir .i).taps ∧ 2 < (Config.reference.fir .i).taps := by decide

-- a coefficient that is not zero, one that is, and the first output after the last tap
theorem test_wit_FirImpulseResponse : Config.reference.ok = true ∧ (0 : Nat) ≤ 3 ∧
    0 < (Config.reference.fir .i).coef.length ∧ 2 < (Config.reference.fir .i).coef.length ∧
    (Config.reference.fir .i).taps ≤ 3 := by decide

-- `dot` is +0, `dot` is -0, `dot` is 1.0
theorem test_wit_DiscStepResult : let s := { sPass with prevRe := one }
    s.issuer = .host ∧ s.seq = .ready ∧
    Fp.fadd (Fp.fmul s.prevRe 0) (Fp.fmul s.prevIm one) = 0x00000000#32 ∧
    Fp.fadd (Fp.fmul s.prevRe 0x80000000#32) (Fp.fmul s.prevIm 0x80000000#32) = 0x80000000#32 ∧
    Fp.fadd (Fp.fmul s.prevRe one) (Fp.fmul s.prevIm 0) = one := by decide

theorem test_wit_FirstDiscriminatorOutputIsZero : sPass.prevRe = 0x00000000#32 ∧ sPass.prevIm = 0x00000000#32 ∧
    Fp.isFinite 0x7F7FFFFF#32 = true ∧ Fp.isFinite sPass.cfg.gain = true := by decide

theorem test_wit_FallbackIsNotTheLimit : { sPass with prevRe := one }.prevRe = 0x3F800000#32 ∧
    { sPass with prevRe := one }.prevIm = 0x00000000#32 := by decide

theorem test_wit_ReferenceGainIsRounded : Fp.isFinite 0x3FCBB7E5#32 = true := by decide

-- a `K` in range, and the least one
theorem test_wit_GainIsRoundedForEveryK : (Fp.isFinite Config.reference.k = true ∧ Fp.isZero Config.reference.k = false) ∧
    Fp.isFinite 0x00000001#32 = true ∧ Fp.isZero 0x00000001#32 = false := by decide

theorem test_wit_AtanProperties : (Fp.isNaN 0xFF800000#32 = false ∧ Fp.ord 0xFF800000#32 ≤ Fp.ord 0x7F800000#32) ∧
    Fp.isFinite 0x7F7FFFFF#32 = true ∧ Fp.isNaN 0x7FC00000#32 = true := by decide

-- both signs of zero and the largest finite operands; a quotient's divisor that is not zero
theorem test_wit_AddSubCorrectlyRounded : Fp.isFinite 0x7F7FFFFF#32 = true ∧ Fp.isFinite 0x80000000#32 = true ∧
    Fp.value 0x80000000#32 + Fp.value 0x80000000#32 = 0 ∧ Fp.value 0x3F800000#32 - Fp.value 0x3F800000#32 = 0 :=
  ⟨by decide, by decide, by simp [Fp.value, Fp.magValue, Fp.units, Fp.magBits], sub_self _⟩

theorem test_wit_MulDivCorrectlyRounded : Fp.isFinite 0x7F7FFFFF#32 = true ∧ Fp.isFinite 0x00000001#32 = true ∧
    Fp.isZero 0x00000001#32 = false := by decide

-- the invariant of rounding: a magnitude below the overflow bound and one at it
theorem test_wit_RoundedTo : |(1 : ℚ)| < Fp.overflowBound ∧ Fp.overflowBound ≤ |(2 ^ 128 : ℚ)| := by
  norm_num [Fp.overflowBound]

theorem test_wit_NonFiniteArithmetic : Fp.isNaN 0x7FC00000#32 = true ∧ Fp.isInf 0x7F800000#32 = true ∧
    Fp.isInf 0xFF800000#32 = true ∧ Fp.isZero 0x80000000#32 = true ∧ Fp.isFinite one = true ∧ Fp.isZero one = false ∧
    Fp.isNaN one = false := by decide

-- stopped; idle; the last Sample
theorem test_wit_LoopFetchResult : sFetch.issuer = .proc ∧ sFetch.seq = .fetch ∧ { sFetch with stop := true }.stop = true ∧
    sFetch.stop = false ∧ sEmpty.inb.head = sEmpty.inb.tail ∧ sOne.inb.head ≠ sOne.inb.tail ∧
    sOne.inb.slots.read (sOne.inb.head % sOne.cfg.ringIn.cap) = some one := by decide

theorem test_wit_LoopComputeResult : let s := asAgent .proc { sOne with seq := .compute }
    s.issuer = .proc ∧ s.seq = .compute ∧ s.Inv := ⟨rfl, rfl, wit_inv _ rfl wit_inv_sOne.ingress wit_inv_sOne.egress (by decide)⟩

theorem test_wit_LoopEmitResult : let s := asAgent .proc { sOne with seq := .emit }
    s.issuer = .proc ∧ s.seq = .emit ∧ 1 ≤ s.cfg.ringOut.cap ∧
      ((s.outb.tail : Int) - s.outb.head) % (2 * s.cfg.ringOut.cap) ≠ s.cfg.ringOut.cap ∧
      ((sFull.outb.tail : Int) - sFull.outb.head) % (2 * s.cfg.ringOut.cap) = s.cfg.ringOut.cap := by decide

theorem test_wit_PipeSampleIsFiveCommands : sPass.issuer = .host ∧ sPass.seq = .ready := by decide

theorem test_wit_ComputeCommutesWithOthers : let s := { sOne with seq := .compute }
    s.seq = .compute ∧ Agent.play ≠ .proc ∧ Instr.rbPopOut ≠ .sysReset ∧
    ∃ t1 t2, exec .loopCompute { s with schedule := [.proc] } = .next t1 ∧
      exec .rbPopOut { t1 with schedule := [.play] } = .next t2 := ⟨rfl, by decide, by decide, _, _, rfl, rfl⟩

theorem test_wit_LoopWorksOffIngress : let s := { sFull with seq := .fetch, schedule := [] }
    s.Inv ∧ s.seq = .fetch ∧ s.stop = false ∧ s.schedule = [] ∧ s.inb.contents s.cfg.ringIn.cap = [one, 0].map some :=
  ⟨wit_inv _ rfl wit_inv_sFull.ingress wit_inv_sFull.egress (by decide), by decide⟩

theorem test_wit_StopHaltsWithinOneIteration : let s := { sPass with stop := true, seq := .compute, schedule := [] }
    s.stop = true ∧ s.seq = .compute ∧ { s with seq := .fetch }.seq = .fetch ∧ { s with seq := .emit }.seq = .emit ∧
    s.schedule = [] := by decide

-- a run in which PLAY moves between PROC's steps
theorem test_wit_StopHaltsAnySchedule :
    let s := { sOne with stop := true, seq := .compute, schedule := [.proc, .play, .proc], playPort := [0x29#8] }
    s.Inv ∧ s.stop = true ∧ s.seq ≠ .ready ∧ s.NoResetWithin 4 ∧ 3 ≤ s.procTurns 4 := by
  refine ⟨wit_inv _ rfl wit_inv_sOne.ingress wit_inv_sOne.egress (by decide), rfl, by decide, ?_, by decide⟩
  intro k t u hk h
  match k, hk with
  | 0, _ | 1, _ | 2, _ | 3, _ => cases h; intro hf; cases hf

theorem test_wit_StoppedLoopMovesTowardHalt : let s := { sOne with stop := true, seq := .emit, schedule := [.proc] }
    s.stop = true ∧ s.seq ≠ .ready ∧ (∀ u, s.fetch ≠ .command .sysReset u) ∧ (∃ t, step s = .next t) ∧
      s.issuer = .proc ∧ (asAgent .cap s).issuer ≠ .proc := by
  refine ⟨rfl, by decide, ?_, ⟨_, rfl⟩, by decide⟩
  intro u h
  cases h

theorem test_wit_InvAtReset : cfgPass.ok = true := by decide

theorem test_wit_StepKeepsInv : let s := { sOne with schedule := [.play], playPort := [0x29#8] }
    s.Inv ∧ ∃ t, step s = .next t :=
  ⟨wit_inv _ rfl wit_inv_sOne.ingress wit_inv_sOne.egress (by decide), _, rfl⟩

theorem test_wit_InvStepNeverStops : sOne.Inv := wit_inv_sOne

theorem test_wit_ConfigurationIsFixed : ∃ t, step { sPass with schedule := [.host], hostPort := [0x00#8] } = .next t := ⟨_, rfl⟩

theorem test_wit_PhaseChangesAreExactly :
    (∃ t, exec .sysStart sPass = .next t ∧ t.seq ≠ .ready) ∧
    (∃ t, exec .loopFetch { sFetch with stop := true } = .next t ∧ t.seq ≠ .fetch) ∧
    (∃ t, exec .sysReset { sPass with seq := .halted } = .next t ∧ t.seq ≠ .halted) :=
  ⟨⟨_, rfl, by decide⟩, ⟨_, rfl, by decide⟩, _, rfl, by decide⟩

theorem test_wit_HaltedIsLeftOnlyByReset : let s := { sPass with seq := .halted, schedule := [.host], hostPort := [0x00#8] }
    s.seq = .halted ∧ ∃ t, step s = .next t ∧ t.seq ≠ .halted := ⟨rfl, _, rfl, by decide⟩

theorem test_wit_StopFlagRule : (∃ t, exec .sysStop sPass = .next t ∧ t.stop ≠ false) ∧
    (∃ t, exec .sysReset { sPass with stop := true } = .next t ∧ t.stop ≠ true) := ⟨⟨_, rfl, by decide⟩, _, rfl, by decide⟩

theorem test_wit_StickyFlagRule :
    (∃ t, exec (.rbPushIn one) (asAgent .cap sFull) = .next t ∧ Instr.rbPushIn one ≠ .sysReset ∧ sFull.inb.ovf = false ∧
      t.inb.ovf = true) ∧
    (∃ t, exec .rbPopIn sEmpty = .next t ∧ sEmpty.inb.unf = false ∧ t.inb.unf = true) ∧
    (∃ t, exec (.rbPushOut one) sFull = .next t ∧ sFull.outb.ovf = false ∧ t.outb.ovf = true) ∧
    (∃ t, exec .rbPopOut (asAgent .play sEmpty) = .next t ∧ sEmpty.outb.unf = false ∧ t.outb.unf = true) ∧
    (∃ t, exec (.rbPushIn one) (asAgent .cap sFull) = .next t ∧ t.reply = some .rejected) ∧
    (∃ t, exec (.rbPushOut one) sFull = .next t ∧ t.reply = some .rejected) ∧
    (∃ t, exec .rbPopIn sEmpty = .next t ∧ t.reply = some .empty) ∧
    (∃ t, exec .rbPopOut (asAgent .play sEmpty) = .next t ∧ t.reply = some .empty) ∧
    (∃ t, exec .loopEmit (asAgent .proc { sFull with seq := .emit }) = .next t ∧
      sFull.outb.occ sFull.cfg.ringOut.cap = sFull.cfg.ringOut.cap) :=
  ⟨⟨_, rfl, by decide⟩, ⟨_, rfl, by decide⟩, ⟨_, rfl, by decide⟩, ⟨_, rfl, by decide⟩, ⟨_, rfl, by decide⟩,
    ⟨_, rfl, by decide⟩, ⟨_, rfl, by decide⟩, ⟨_, rfl, by decide⟩, _, rfl, by decide⟩

theorem test_wit_AgentsWriteOnlyTheirState :
    (∃ t, exec (.rbPushIn one) (asAgent .cap sOne) = .next t ∧ (asAgent .cap sOne).issuer = .cap) ∧
    (∃ t, exec .rbPopOut (asAgent .play sOne) = .next t ∧ (asAgent .play sOne).issuer = .play) ∧
    (∃ t, exec .loopFetch sFetch = .next t ∧ sFetch.issuer = .proc) ∧
    (∃ t, exec .sysStop { sPass with seq := .emit } = .next t ∧ sPass.issuer = .host ∧ Phase.emit ≠ .ready ∧
      Instr.sysStop ≠ .sysReset) ∧
    (∃ t, exec .rbPopIn sOne = .next t ∧ sOne.issuer = .host ∧ sOne.seq = .ready ∧ Instr.rbPopIn ≠ .sysReset) :=
  ⟨⟨_, rfl, rfl⟩, ⟨_, rfl, rfl⟩, ⟨_, rfl, rfl⟩, ⟨_, rfl, rfl, by decide, by decide⟩, _, rfl, rfl, rfl, by decide⟩

theorem test_wit_PrivateStateIsHidden : let s := asAgent .cap sOne
    let s' := { s with seq := .halted, quad := 2, stop := true }
    s.issuer = .cap ∧ s'.issuer = s.issuer ∧ s'.cfg = s.cfg ∧ s'.inb = s.inb ∧ s'.outb = s.outb ∧
      ∃ t, exec (.rbPushIn one) s = .next t := ⟨rfl, rfl, rfl, rfl, rfl, _, rfl⟩

theorem test_wit_StoresReachOnlyTheTailSlot :
    (∃ t, exec (.rbPushIn one) (asAgent .cap sOne) = .next t ∧ 0 ≠ slotOf sOne.cfg.ringIn.cap sOne.inb.tail) ∧
    (∃ t, exec (.rbPushOut one) sOne = .next t ∧ 0 ≠ slotOf sOne.cfg.ringOut.cap sOne.outb.tail) ∧
    (∃ t, exec .loopEmit (asAgent .proc { sOne with seq := .emit }) = .next t) :=
  ⟨⟨_, rfl, by decide⟩, ⟨_, rfl, by decide⟩, _, rfl⟩

theorem test_wit_OthersLeaveSlotsUnchanged : (∃ t, exec .rbPopIn sOne = .next t) ∧ (∀ v, Instr.rbPopIn ≠ .rbPushIn v) ∧
    (∀ v, Instr.rbPopIn ≠ .rbPushOut v) ∧ Instr.rbPopIn ≠ .loopEmit ∧ Instr.rbPopIn ≠ .sysReset :=
  ⟨⟨_, rfl⟩, by simp, by simp, by decide, by decide⟩

end Sys2Proof.Tests
end

section
/-! PROOFS. The arithmetic of 00_scope.md R13. `roundMag` is shown nearest among all magnitudes by bracketing the exact
quotient between two adjacent magnitudes; the sign, the range and the four operations are put on top of that. -/

namespace Sys2Proof.Fp

/-! Magnitudes and their units -/

theorem strictMono_units : StrictMono units :=
  strictMono_nat_of_lt_succ fun m => by
    rw [Config.units_succ]
    exact Nat.lt_add_of_pos_right (Nat.two_pow_pos _)

@[simp] theorem units_zero : units 0 = 0 := by decide

/-- A significand `f` of at most 24 bits, or its successor, in the binade that loses `sh` bits. -/
theorem units_binade {sh f : ℕ} (hf : f ≤ 2 ^ 24) (hsh : sh = 0 ∨ 2 ^ 23 ≤ f) :
    units (sh * 2 ^ 23 + f) = f * 2 ^ sh := by
  unfold units
  rcases lt_or_ge f (2 ^ 23) with hlow | hlow
  · obtain rfl : sh = 0 := by omega
    rw [zero_mul, zero_add, if_pos (Nat.div_eq_of_lt hlow), pow_zero, mul_one]
  rcases hf.lt_or_eq with hlt | rfl
  · have hdiv : (sh * 2 ^ 23 + f) / 2 ^ 23 = sh + 1 := by omega
    have hmod : 2 ^ 23 + (sh * 2 ^ 23 + f) % 2 ^ 23 = f := by omega
    rw [hdiv, hmod]
    simp
  · have hdiv : (sh * 2 ^ 23 + 2 ^ 24) / 2 ^ 23 = sh + 2 := by omega
    have hmod : (sh * 2 ^ 23 + 2 ^ 24) % 2 ^ 23 = 0 := by omega
    rw [hdiv, hmod, if_neg (Nat.succ_ne_zero _)]
    show 2 ^ 23 * 2 ^ (sh + 1) = _
    ring

theorem units_infMag : units infMag = 2 ^ 24 * 2 ^ 253 :=
  units_binade (sh := 253) (f := 2 ^ 24) le_rfl (by norm_num)

theorem units_maxFinite : units (infMag - 1) = (2 ^ 24 - 1) * 2 ^ 253 :=
  units_binade (sh := 253) (f := 2 ^ 24 - 1) (by norm_num) (by norm_num)

/-- The significand kept by `excessBits` has 24 bits, or no bit is lost. -/
theorem significand_bounds (k : ℕ) :
    k / 2 ^ excessBits k < 2 ^ 24 ∧ (excessBits k = 0 ∨ 2 ^ 23 ≤ k / 2 ^ excessBits k) := by
  have hlt : k < 2 ^ (Nat.log2 k + 1) := Nat.lt_log2_self
  rcases Nat.le_total (Nat.log2 k) 23 with hle | hle
  · have hsh : excessBits k = 0 := Nat.sub_eq_zero_of_le hle
    have : k < 2 ^ 24 := hlt.trans_le (Nat.pow_le_pow_right (by norm_num) (by omega))
    simpa [hsh] using this
  · obtain ⟨sh, hlog⟩ := Nat.exists_eq_add_of_le hle
    have hsh : excessBits k = sh := by simp [excessBits, hlog]
    have hk : 2 ^ Nat.log2 k ≤ k := Nat.log2_self_le (by rintro rfl; simp at hle)
    rw [hsh, Nat.div_lt_iff_lt_mul (Nat.two_pow_pos _), Nat.le_div_iff_mul_le (Nat.two_pow_pos _), ← pow_add, ← pow_add]
    rw [hlog] at hlt hk
    exact ⟨hlt.trans_eq (by ring), .inr hk⟩

/-! Rounding of a magnitude -/

/-- `m` are magnitude bits nearest to `x` units, the range of the exponent left out of account, and even in a tie. -/
structure NearestMag (x : ℚ) (m : ℕ) : Prop where
  nearest : ∀ c : ℕ, |(units m : ℚ) - x| ≤ |(units c : ℚ) - x|
  tiesToEven : ∀ c : ℕ, c ≠ m → |(units c : ℚ) - x| = |(units m : ℚ) - x| → m % 2 = 0

/-- No magnitude lies strictly between two adjacent ones. -/
theorem units_outside_bracket (b c : ℕ) : (units c : ℚ) ≤ units b ∨ (units (b + 1) : ℚ) ≤ units c := by
  rcases Nat.lt_or_ge b c with h | h
  · exact .inr (by exact_mod_cast strictMono_units.monotone h)
  · exact .inl (by exact_mod_cast strictMono_units.monotone h)

/-- The lower end of a bracket is nearest where `x` does not lie above the middle. -/
theorem nearestMag_lower {x : ℚ} {b : ℕ} (hlo : (units b : ℚ) ≤ x) (hmid : 2 * x ≤ units b + units (b + 1))
    (heven : 2 * x = units b + units (b + 1) → b % 2 = 0) : NearestMag x b := by
  have hb : |(units b : ℚ) - x| = x - units b := by rw [abs_sub_comm, abs_of_nonneg (by linarith)]
  refine ⟨fun c => ?_, fun c hc heq => ?_⟩
  · rw [hb]
    rcases units_outside_bracket b c with h | h
    · exact (by linarith : x - units b ≤ -((units c : ℚ) - x)).trans (neg_le_abs _)
    · exact (by linarith : x - units b ≤ (units c : ℚ) - x).trans (le_abs_self _)
  · rw [hb] at heq
    rcases units_outside_bracket b c with h | h
    · rw [abs_sub_comm, abs_of_nonneg (by linarith)] at heq
      have : (units c : ℚ) = units b := by linarith
      exact absurd (strictMono_units.injective (by exact_mod_cast this)) hc
    · have := heq ▸ le_abs_self ((units c : ℚ) - x)
      exact heven (by linarith)

/-- The upper end of a bracket is nearest where `x` does not lie below the middle. -/
theorem nearestMag_upper {x : ℚ} {b : ℕ} (hhi : x ≤ units (b + 1)) (hmid : (units b : ℚ) + units (b + 1) ≤ 2 * x)
    (heven : 2 * x = units b + units (b + 1) → (b + 1) % 2 = 0) : NearestMag x (b + 1) := by
  have hb : |(units (b + 1) : ℚ) - x| = units (b + 1) - x := abs_of_nonneg (by linarith)
  refine ⟨fun c => ?_, fun c hc heq => ?_⟩
  · rw [hb]
    rcases units_outside_bracket b c with h | h
    · exact (by linarith : units (b + 1) - x ≤ -((units c : ℚ) - x)).trans (neg_le_abs _)
    · exact (by linarith : units (b + 1) - x ≤ (units c : ℚ) - x).trans (le_abs_self _)
  · rw [hb] at heq
    rcases units_outside_bracket b c with h | h
    · have := heq ▸ neg_le_abs ((units c : ℚ) - x)
      exact heven (by linarith)
    · rw [abs_of_nonneg (by linarith)] at heq
      have : (units c : ℚ) = units (b + 1) := by linarith
      exact absurd (strictMono_units.injective (by exact_mod_cast this)) hc

/-- `divRNE` is the floor or its successor, as the remainder says; in a tie it is even. -/
theorem divRNE_cases (p q : ℕ) :
    (divRNE p q = p / q ∧ 2 * (p % q) ≤ q ∧ (2 * (p % q) = q → p / q % 2 = 0)) ∨
      (divRNE p q = p / q + 1 ∧ q ≤ 2 * (p % q) ∧ (2 * (p % q) = q → (p / q + 1) % 2 = 0)) := by
  unfold divRNE
  dsimp only
  split_ifs with hlt hgt heven
  · exact .inl ⟨rfl, hlt.le, fun h => absurd h hlt.ne⟩
  · exact .inr ⟨rfl, hgt.le, fun h => absurd h hgt.ne'⟩
  · exact .inl ⟨rfl, not_lt.mp hgt, fun _ => heven⟩
  · exact .inr ⟨rfl, not_lt.mp hlt, fun _ => by omega⟩

/-- The spacing of the magnitudes around `p / q` units, in units over `q`. -/
def spacing (p q : ℕ) : ℕ := q * 2 ^ excessBits (p / q)

/-- The magnitude bits of `p / q` units rounded down, with an exponent field of any size. -/
def floorMag (p q : ℕ) : ℕ := excessBits (p / q) * 2 ^ 23 + p / spacing p q

/-- `RN` before the range is looked at: the magnitude bits with an exponent field of any size. -/
def roundMagWide (p q : ℕ) : ℕ := excessBits (p / q) * 2 ^ 23 + divRNE p (spacing p q)

theorem roundMag_eq_min (p q : ℕ) : roundMag p q = min (roundMagWide p q) infMag := rfl

theorem significand_floor_bounds (p q : ℕ) :
    p / spacing p q < 2 ^ 24 ∧ (excessBits (p / q) = 0 ∨ 2 ^ 23 ≤ p / spacing p q) := by
  rw [spacing, ← Nat.div_div_eq_div_mul]
  exact significand_bounds _

/-- The exact quotient is its floor and the remainder. -/
theorem quotient_eq_floor_add (p : ℕ) {q : ℕ} (hq : 0 < q) :
    (p : ℚ) / q = units (floorMag p q) + (p % spacing p q : ℕ) / (q : ℚ) := by
  obtain ⟨hlt, hfull⟩ := significand_floor_bounds p q
  have hq' : (q : ℚ) ≠ 0 := by exact_mod_cast hq.ne'
  have hp : p = p / spacing p q * (q * 2 ^ excessBits (p / q)) + p % spacing p q := (Nat.div_add_mod' _ _).symm
  rw [floorMag, units_binade hlt.le hfull, div_eq_iff hq', add_mul, div_mul_cancel₀ _ hq']
  exact_mod_cast hp.trans (by ring)

/-- The magnitude above the floor is one spacing higher. -/
theorem units_floorMag_succ (p : ℕ) {q : ℕ} (hq : 0 < q) :
    (units (floorMag p q + 1) : ℚ) = units (floorMag p q) + (spacing p q : ℕ) / (q : ℚ) := by
  obtain ⟨hlt, hfull⟩ := significand_floor_bounds p q
  have hq' : (q : ℚ) ≠ 0 := by exact_mod_cast hq.ne'
  rw [floorMag, add_assoc, units_binade hlt.le hfull,
    units_binade (Nat.succ_le_of_lt hlt) (hfull.imp_right Nat.le_succ_of_le), spacing]
  push_cast
  field_simp

theorem floorMag_mod_two (p q : ℕ) : floorMag p q % 2 = p / spacing p q % 2 := by
  unfold floorMag
  omega

/-- The wide rounding is nearest: the doubled remainder says on which side of the middle the quotient lies. -/
theorem roundMagWide_nearest (p : ℕ) {q : ℕ} (hq : 0 < q) : NearestMag ((p : ℚ) / q) (roundMagWide p q) := by
  have hx := quotient_eq_floor_add p hq
  have hgap := units_floorMag_succ p hq
  have hmod := floorMag_mod_two p q
  have hq' : (0 : ℚ) < q := by exact_mod_cast hq
  have hr : p % spacing p q ≤ spacing p q := (Nat.mod_lt p (Nat.mul_pos hq (Nat.two_pow_pos _))).le
  have hr0 : (0 : ℚ) ≤ (p % spacing p q : ℕ) / (q : ℚ) := by positivity
  have hr1 : ((p % spacing p q : ℕ) : ℚ) / q ≤ (spacing p q : ℕ) / q := by gcongr
  have htie (h : 2 * (((p % spacing p q : ℕ) : ℚ) / q) = (spacing p q : ℕ) / q) :
      2 * (p % spacing p q) = spacing p q := by
    field_simp at h
    exact_mod_cast h
  rcases divRNE_cases p (spacing p q) with ⟨hm, hmid, heven⟩ | ⟨hm, hmid, heven⟩
  · have hmid' : 2 * (((p % spacing p q : ℕ) : ℚ) / q) ≤ (spacing p q : ℕ) / q := by
      rw [← mul_div_assoc]
      gcongr
      exact_mod_cast hmid
    rw [roundMagWide, hm]
    exact nearestMag_lower (b := floorMag p q) (by linarith) (by linarith) fun h =>
      hmod.trans (heven (htie (by linarith)))
  · have hmid' : ((spacing p q : ℕ) : ℚ) / q ≤ 2 * (((p % spacing p q : ℕ) : ℚ) / q) := by
      rw [← mul_div_assoc]
      gcongr
      exact_mod_cast hmid
    rw [roundMagWide, hm, ← add_assoc]
    exact nearestMag_upper (b := floorMag p q) (by linarith) (by linarith) fun h => by
      have := heven (htie (by linarith))
      omega

/-- Magnitudes nearest to `x` units reach that of infinity exactly from the overflow bound of R13 on. -/
theorem NearestMag.infMag_le_iff {x : ℚ} {m : ℕ} (h : NearestMag x m) :
    infMag ≤ m ↔ overflowBound * 2 ^ 149 ≤ x := by
  have hbound : overflowBound * 2 ^ 149 = (2 ^ 24 - 1 / 2) * 2 ^ 253 := by norm_num [overflowBound]
  have hmax : (units (infMag - 1) : ℚ) = (2 ^ 24 - 1) * 2 ^ 253 := by rw [units_maxFinite]; norm_num
  have hinf : (units infMag : ℚ) = 2 ^ 24 * 2 ^ 253 := by rw [units_infMag]; norm_num
  rw [hbound]
  constructor
  · intro hm
    have hle : (units infMag : ℚ) ≤ units m := by exact_mod_cast strictMono_units.monotone hm
    have hn := (le_abs_self _).trans (h.nearest (infMag - 1))
    by_contra hlt
    rcases abs_cases ((units (infMag - 1) : ℚ) - x) with hc | hc <;> linarith
  · intro hx
    by_contra hm
    have hle : (units m : ℚ) ≤ units (infMag - 1) := by
      exact_mod_cast strictMono_units.monotone (Nat.le_sub_one_of_lt (not_le.mp hm))
    have hn := (neg_le_abs _).trans (h.nearest infMag)
    have hx' : x ≤ units infMag := by
      by_contra hgt
      rw [abs_sub_comm, abs_of_nonneg (by linarith)] at hn
      linarith
    rw [abs_of_nonneg (by linarith)] at hn
    have hm' : (units m : ℚ) = units (infMag - 1) := by linarith
    have hmax' : m = infMag - 1 := strictMono_units.injective (by exact_mod_cast hm')
    have heven := h.tiesToEven infMag (by omega) (by
      rw [abs_of_nonneg (by linarith), abs_sub_comm, abs_of_nonneg (by linarith)]; linarith)
    rw [hmax'] at heven
    exact absurd heven (by decide)

/-! Signs and fields of a Sample -/

/-- The magnitude `v` with the sign `s`. -/
def signed (s : Bool) (v : ℚ) : ℚ := if s then -v else v

theorem value_eq_signed (x : Sample) : value x = signed (signBit x) (magValue (magBits x)) := rfl

@[simp] theorem abs_signed (s : Bool) (v : ℚ) : |signed s v| = |v| := by cases s <;> simp [signed]

/-- Equal signs leave the distance of the magnitudes. -/
@[simp] theorem signed_sub_signed (s : Bool) (v w : ℚ) : signed s v - signed s w = signed s (v - w) := by
  cases s
  · rfl
  · simp only [signed, if_true]
    ring

theorem neg_signed (s : Bool) (v : ℚ) : -signed s v = signed s (-v) := by cases s <;> rfl

theorem signed_mul (s t : Bool) (v w : ℚ) : signed s v * signed t w = signed (s != t) (v * w) := by
  cases s <;> cases t <;> simp [signed]

theorem signed_div (s t : Bool) (v w : ℚ) : signed s v / signed t w = signed (s != t) (v / w) := by
  cases s <;> cases t <;> simp [signed, neg_div, div_neg]

theorem abs_value (x : Sample) : |value x| = magValue (magBits x) := by
  rw [value_eq_signed, abs_signed, abs_of_nonneg (Config.magValue_nonneg _)]

@[simp] theorem magBits_ofSignMag (s : Bool) {m : ℕ} (h : m ≤ infMag) : magBits (ofSignMag s m) = m := by
  unfold infMag at h
  rw [magBits, ofSignMag, BitVec.toNat_ofNat]
  split_ifs <;> omega

@[simp] theorem signBit_ofSignMag (s : Bool) {m : ℕ} (h : m ≤ infMag) : signBit (ofSignMag s m) = s := by
  unfold infMag at h
  rw [signBit, BitVec.msb_eq_decide, ofSignMag, BitVec.toNat_ofNat]
  cases s
  · rw [decide_eq_false_iff_not, if_neg Bool.false_ne_true]
    omega
  · rw [decide_eq_true_iff, if_pos rfl]
    omega

@[simp] theorem signBit_fneg (b : Sample) : signBit (fneg b) = !signBit b := by
  simp [signBit, fneg, BitVec.msb_xor, show (0x80000000#32).msb = true by decide]

@[simp] theorem magBits_fneg (b : Sample) : magBits (fneg b) = magBits b := by
  simp [magBits, fneg, BitVec.toNat_xor, Nat.xor_mod_two_pow (n := 31)]

@[simp] theorem intUnits_fneg (b : Sample) : intUnits (fneg b) = -intUnits b := by
  cases h : signBit b <;> simp [intUnits, h]

theorem value_eq_intUnits (x : Sample) : value x = intUnits x / 2 ^ 149 := by
  unfold value intUnits magValue
  split_ifs <;> push_cast <;> ring

theorem isNaN_of_isFinite {x : Sample} (h : isFinite x = true) : isNaN x = false := by
  simp only [isFinite, isNaN, decide_eq_true_eq, decide_eq_false_iff_not] at *
  omega

theorem isInf_of_isFinite {x : Sample} (h : isFinite x = true) : isInf x = false := by
  simp only [isFinite, isInf, decide_eq_true_eq, decide_eq_false_iff_not] at *
  omega

theorem abs_magValue_sub (m : ℕ) (x : ℚ) : |magValue m - x / 2 ^ 149| = |(units m : ℚ) - x| / 2 ^ 149 := by
  rw [magValue, ← sub_div, abs_div, abs_of_pos (by positivity : (0 : ℚ) < 2 ^ 149)]

/-- A Sample is no nearer to `e` than its magnitude is to that of `e`. -/
theorem abs_magValue_sub_abs_le (c : Sample) (e : ℚ) : |magValue (magBits c) - (|e|)| ≤ |value c - e| := by
  rw [← abs_value]
  exact abs_abs_sub_abs_le _ _

/-- The opposite of a nearest magnitude is as near only where both are zero. -/
theorem NearestMag.eq_zero_of_neg_as_near {x : ℚ} {m : ℕ} (h : NearestMag x m)
    (heq : |-magValue m - x / 2 ^ 149| = |magValue m - x / 2 ^ 149|) : magValue m = 0 := by
  have hprod : magValue m * x = 0 := by
    rw [← sq_eq_sq_iff_abs_eq_abs] at heq
    linarith
  rcases mul_eq_zero.mp hprod with hv | rfl
  · exact hv
  · have hn := h.nearest 0
    simp only [units_zero, Nat.cast_zero, sub_zero, abs_zero] at hn
    simp [magValue, abs_nonpos_iff.mp hn]

/-- The rounded magnitude with the sign of the exact one, where it stays in range. -/
theorem NearestMag.roundedTo_of_lt {x : ℚ} {m : ℕ} (h : NearestMag x m) (hx : 0 ≤ x) (s : Bool) (hm : m < infMag) :
    RoundedTo (signed s (x / 2 ^ 149)) (ofSignMag s m) := by
  have hmag : magBits (ofSignMag s m) = m := magBits_ofSignMag s hm.le
  have hval : value (ofSignMag s m) = signed s (magValue m) := by
    rw [value_eq_signed, signBit_ofSignMag s hm.le, hmag]
  have habs : |signed s (x / 2 ^ 149)| = x / 2 ^ 149 := by rw [abs_signed, abs_of_nonneg (by positivity)]
  have hdist : |value (ofSignMag s m) - signed s (x / 2 ^ 149)| = |(units m : ℚ) - x| / 2 ^ 149 := by
    rw [hval, signed_sub_signed, abs_signed, abs_magValue_sub]
  have hother (c : Sample) : |(units (magBits c) : ℚ) - x| / 2 ^ 149 ≤ |value c - signed s (x / 2 ^ 149)| := by
    have := abs_magValue_sub_abs_le c (signed s (x / 2 ^ 149))
    rwa [habs, abs_magValue_sub] at this
  refine ⟨fun _ => by simpa [isFinite, hmag] using hm, fun _ c _ => ?_, fun _ c _ heq hne => ?_, fun hover => ?_⟩
  · rw [hdist]
    exact (div_le_div_of_nonneg_right (h.nearest _) (by positivity)).trans (hother c)
  · rw [hmag]
    by_cases hc : magBits c = m
    · have hopp : value c = -value (ofSignMag s m) :=
        (abs_eq_abs.mp (by rw [abs_value, abs_value, hc, hmag])).resolve_left hne
      rw [hopp, hval, neg_signed, signed_sub_signed, signed_sub_signed, abs_signed, abs_signed] at heq
      rw [hopp, hval, h.eq_zero_of_neg_as_near heq] at hne
      cases s <;> simp [signed] at hne
    · refine h.tiesToEven _ hc (le_antisymm ?_ (h.nearest _))
      rw [hdist] at heq
      exact (div_le_div_iff_of_pos_right (by positivity)).mp (heq ▸ hother c)
  · rw [habs, le_div_iff₀ (by positivity), ← h.infMag_le_iff] at hover
    exact absurd hover hm.not_ge

/-- A signed magnitude rounded to nearest and cut off at infinity is that number rounded as R13 says. -/
theorem NearestMag.roundedTo {x : ℚ} {m : ℕ} (h : NearestMag x m) (hx : 0 ≤ x) (s : Bool) :
    RoundedTo (signed s (x / 2 ^ 149)) (ofSignMag s (min m infMag)) := by
  rcases Nat.lt_or_ge m infMag with hm | hm
  · rw [min_eq_left hm.le]
    exact h.roundedTo_of_lt hx s hm
  have hover := h.infMag_le_iff.mp hm
  have hpos : 0 < x / 2 ^ 149 := by
    have : (0 : ℚ) < overflowBound := by norm_num [overflowBound]
    exact div_pos (lt_of_lt_of_le (by positivity) hover) (by positivity)
  have hle : overflowBound ≤ |signed s (x / 2 ^ 149)| := by
    rwa [abs_signed, abs_of_pos hpos, le_div_iff₀ (by positivity)]
  have hinf : isInf (ofSignMag s infMag) = true ∧ (signBit (ofSignMag s infMag) = true ↔ signed s (x / 2 ^ 149) < 0) := by
    rw [isInf, magBits_ofSignMag s le_rfl, signBit_ofSignMag s le_rfl]
    cases s
    · simp [signed, hpos.le]
    · simp [signed, hpos]
  rw [min_eq_right hm]
  exact ⟨(absurd hle ·.not_ge), (absurd hle ·.not_ge), (absurd hle ·.not_ge), fun _ => hinf⟩

/-- `roundMag` with a sign rounds the signed quotient as R13 says. -/
theorem roundedTo_roundMag (s : Bool) (p : ℕ) {q : ℕ} (hq : 0 < q) :
    RoundedTo (signed s ((p : ℚ) / q / 2 ^ 149)) (ofSignMag s (roundMag p q)) := by
  rw [roundMag_eq_min]
  exact (roundMagWide_nearest p hq).roundedTo (by positivity) s

/-! The four operations on finite operands -/

theorem fadd_of_finite {a b : Sample} (ha : isFinite a = true) (hb : isFinite b = true) :
    fadd a b = roundSum (signBit a && signBit b) (intUnits a + intUnits b) := by
  simp [fadd, addCore, isNaN_of_isFinite, isInf_of_isFinite, ha, hb]

@[simp] theorem isFinite_fneg (b : Sample) : isFinite (fneg b) = isFinite b := by simp [isFinite]

theorem fsub_of_finite {a b : Sample} (ha : isFinite a = true) (hb : isFinite b = true) :
    fsub a b = roundSum (signBit a && !signBit b) (intUnits a - intUnits b) := by
  simp [fsub, addCore, isNaN_of_isFinite, isInf_of_isFinite, ha, hb, sub_eq_add_neg]

theorem fmul_of_finite {a b : Sample} (ha : isFinite a = true) (hb : isFinite b = true) :
    fmul a b = ofSignMag (signBit a != signBit b) (roundMag (units (magBits a) * units (magBits b)) (2 ^ 149)) := by
  simp [fmul, isNaN_of_isFinite, isInf_of_isFinite, ha, hb]

theorem fdiv_of_finite {a b : Sample} (ha : isFinite a = true) (hb : isFinite b = true) (h0 : isZero b = false) :
    fdiv a b = ofSignMag (signBit a != signBit b) (roundMag (units (magBits a) * 2 ^ 149) (units (magBits b))) := by
  simp [fdiv, isNaN_of_isFinite, isInf_of_isFinite, ha, hb, h0]

theorem units_pos_of_not_isZero {b : Sample} (h : isZero b = false) : 0 < units (magBits b) := by
  have : magBits b ≠ 0 := by simpa [isZero] using h
  simpa using strictMono_units (Nat.pos_of_ne_zero this)

theorem signBit_ofSignMag_roundMag (s : Bool) (p q : ℕ) : signBit (ofSignMag s (roundMag p q)) = s :=
  signBit_ofSignMag s (min_le_right _ _)

/-- `roundSum` rounds a sum of `n` units as R13 says, whatever the sign of a zero. -/
theorem roundedTo_roundSum (z : Bool) (n : ℤ) : RoundedTo ((n : ℚ) / 2 ^ 149) (roundSum z n) := by
  unfold roundSum
  split_ifs with h0
  · subst h0
    simpa [signed, show roundMag 0 1 = 0 by decide] using roundedTo_roundMag z 0 one_pos
  · have h := roundedTo_roundMag (decide (n < 0)) n.natAbs one_pos
    have hn : signed (decide (n < 0)) (n.natAbs / (1 : ℕ) / 2 ^ 149 : ℚ) = n / 2 ^ 149 := by
      rcases lt_or_ge n 0 with hneg | hpos
      · simp [signed, hneg, Nat.cast_natAbs, abs_of_neg, neg_div]
      · simp [signed, hpos.not_gt, Nat.cast_natAbs, abs_of_nonneg hpos]
    rwa [hn] at h

theorem roundSum_of_eq_zero (z : Bool) {n : ℤ} (h : (n : ℚ) / 2 ^ 149 = 0) :
    roundSum z n = if z then 0x80000000#32 else 0x00000000#32 := by
  obtain rfl : n = 0 := by simpa using h
  cases z <;> rfl

theorem value_add_eq (a b : Sample) : value a + value b = (intUnits a + intUnits b : ℤ) / 2 ^ 149 := by
  rw [value_eq_intUnits, value_eq_intUnits]; push_cast; ring

theorem value_sub_eq (a b : Sample) : value a - value b = (intUnits a - intUnits b : ℤ) / 2 ^ 149 := by
  rw [value_eq_intUnits, value_eq_intUnits]; push_cast; ring

theorem value_mul_eq (a b : Sample) : value a * value b = signed (signBit a != signBit b)
    ((units (magBits a) * units (magBits b) : ℕ) / (2 ^ 149 : ℕ) / 2 ^ 149) := by
  rw [value_eq_signed, value_eq_signed, signed_mul, magValue, magValue, div_mul_div_comm, div_div]
  push_cast
  rfl

theorem value_div_eq (a b : Sample) : value a / value b = signed (signBit a != signBit b)
    ((units (magBits a) * 2 ^ 149 : ℕ) / (units (magBits b) : ℕ) / 2 ^ 149) := by
  rw [value_eq_signed, value_eq_signed, signed_div, magValue, magValue]
  congr 1
  push_cast
  field_simp
  norm_num

/-- Settles O35: both operations round a whole number of units, of which zero keeps its own sign. -/
theorem addSubCorrectlyRounded : Obligations.AddSubCorrectlyRounded := by
  intro a b ha hb
  rw [fadd_of_finite ha hb, fsub_of_finite ha hb, value_add_eq, value_sub_eq]
  exact ⟨roundedTo_roundSum _ _, roundedTo_roundSum _ _, roundSum_of_eq_zero _, roundSum_of_eq_zero _⟩

/-- Settles O36: both operations round a quotient of whole numbers of units, with the sign of the exact result. -/
theorem mulDivCorrectlyRounded : Obligations.MulDivCorrectlyRounded := by
  intro a b ha hb
  rw [fmul_of_finite ha hb, value_mul_eq]
  refine ⟨roundedTo_roundMag _ _ (Nat.two_pow_pos _), signBit_ofSignMag_roundMag _ _ _, fun h0 => ?_⟩
  rw [fdiv_of_finite ha hb h0, value_div_eq]
  exact ⟨roundedTo_roundMag _ _ (units_pos_of_not_isZero h0), signBit_ofSignMag_roundMag _ _ _⟩

end Sys2Proof.Fp
end

section
/-! PROOFS. The rules of 10_state.md: who may write what, and what each operation does to the configuration, the phase,
`STOP`, the ring buffers and the histories. One lemma says everything an operation but reset does to a ring buffer
(`exec_ringChange`), and the rules on flags and slots are read off it. -/

namespace Sys2Proof.Machine

/-! The ring buffers' names, and the updates of one of them -/

/-- The push on a ring buffer. -/
def pushOn : RingId → Sample → Instr
  | .ingress, v => .rbPushIn v
  | .egress, v => .rbPushOut v

/-- The pop on a ring buffer. -/
def popOn : RingId → Instr
  | .ingress => .rbPopIn
  | .egress => .rbPopOut

theorem State.setRing_ring_ne (s : State) {rb rb' : RingId} (r : Ring) (h : rb' ≠ rb) :
    (s.setRing rb r).ring rb' = s.ring rb' := by
  cases rb <;> cases rb' <;> trivial

@[simp] theorem State.answer_ring (s : State) (a : Response) (rb : RingId) : (s.answer a).ring rb = s.ring rb := by
  cases rb <;> rfl

/-- What an answered push does: rejected where the buffer is full, else stored (40_ring_buffer.md R111). -/
theorem State.pushAnswered_cases (s : State) (rb : RingId) (v : Sample) :
    ((s.ring rb).occ (s.cap rb) = s.cap rb ∧
      s.pushAnswered rb v = (s.setRing rb (s.ring rb).setOvf).answer .rejected) ∨
    ((s.ring rb).occ (s.cap rb) ≠ s.cap rb ∧
      s.pushAnswered rb v = (s.setRing rb { s.ring rb with
        slots := (s.ring rb).slots.write (slotOf (s.cap rb) (s.ring rb).tail) v
        tail := nextIndex (s.cap rb) (s.ring rb).tail }).answer (.ok [])) := by
  unfold State.pushAnswered
  rcases Ring.push_cases (s.cap rb) (s.ring rb) v with ⟨hf, hp⟩ | ⟨hf, hp⟩
  · exact .inl ⟨hf, by simp [hp]⟩
  · exact .inr ⟨hf, by simp [hp]⟩

/-- What an answered pop does when it gives a next state: `EMPTY` where the buffer is empty, else the Sample of the head's
slot (40_ring_buffer.md R112). -/
theorem State.popAnswered_next {s t : State} {rb : RingId} :
    s.popAnswered rb = .next t ↔
      ((s.ring rb).head = (s.ring rb).tail ∧ t = (s.setRing rb (s.ring rb).setUnf).answer .empty) ∨
      ((s.ring rb).head ≠ (s.ring rb).tail ∧ ∃ v, (s.ring rb).slots.read (slotOf (s.cap rb) (s.ring rb).head) = some v ∧
        t = (s.setRing rb { s.ring rb with head := nextIndex (s.cap rb) (s.ring rb).head }).answer (.ok [v])) := by
  unfold State.popAnswered
  rcases Ring.pop_cases (s.cap rb) (s.ring rb) with ⟨he, hp⟩ | ⟨he, v, hv, hp⟩ | ⟨he, hv, hp⟩
  · simp [hp, he, eq_comm]
  · simp [hp, he, hv, eq_comm]
  · simp [hp, he, hv]

theorem Ring.pop_unwritten {cap : Nat} {r : Ring} (he : r.head ≠ r.tail)
    (hv : r.slots.read (slotOf cap r.head) = none) : r.pop cap = .error .unwrittenSlot := by
  simp [Ring.pop, Ring.isEmpty, he, hv]

theorem State.popAnswered_fault {s : State} {rb : RingId} (he : (s.ring rb).head ≠ (s.ring rb).tail)
    (hv : (s.ring rb).slots.read (slotOf (s.cap rb) (s.ring rb).head) = none) :
    s.popAnswered rb = .fault .unwrittenSlot := by
  simp [State.popAnswered, Ring.pop_unwritten he hv]

/-- A pop writes its own ring buffer and the response. -/
theorem State.popAnswered_frame {s t : State} {rb : RingId} (h : s.popAnswered rb = .next t) :
    ∃ r a, t = (s.setRing rb r).answer a := by
  rcases State.popAnswered_next.mp h with ⟨_, rfl⟩ | ⟨_, v, _, rfl⟩ <;> exact ⟨_, _, rfl⟩

/-! What the two system operations with a condition of their own give (45_system.md R200, R201) -/

theorem sysReset_cases {s t : State} (h : Effect .sysReset s t) :
    t = s.reconstruct.answer (.ok []) ∨ t = s.answer .refused := by
  by_cases hc : s.cfg.ok = true
  · exact .inl (h.trans (if_pos hc))
  · exact .inr (h.trans (if_neg hc))

theorem sysStart_cases {s t : State} (h : Effect .sysStart s t) :
    (s.seq = .ready ∧ t = { s with seq := .fetch }.answer (.ok [])) ∨ (s.seq ≠ .ready ∧ t = s.answer .refused) := by
  by_cases hs : s.seq = .ready
  · exact .inl ⟨hs, h.trans (if_pos hs)⟩
  · exact .inr ⟨hs, h.trans (if_neg hs)⟩

/-! Admission, agent by agent (30_encoding.md R100) -/

theorem admits_cap {ph : Phase} {i : Instr} :
    admits .cap ph i = true ↔ (∃ v, i = .rbPushIn v) ∨ i = .rbEmptyIn := by
  cases i <;> simp [admits]

theorem admits_play {ph : Phase} {i : Instr} :
    admits .play ph i = true ↔ i = .rbPopOut ∨ i = .rbEmptyOut := by
  cases i <;> simp [admits]

theorem admits_proc {ph : Phase} {i : Instr} : admits .proc ph i = true ↔ loopPhase i = some ph := by
  cases i <;> simp [admits, loopPhase, @eq_comm _ ph]

/-- A LOOP step is admitted in its own phase alone. -/
theorem phase_of_admits_loop {a : Agent} {ph ph' : Phase} {i : Instr} (h : admits a ph i = true)
    (hi : loopPhase i = some ph') : ph = ph' := by
  cases i with
  | loopFetch | loopCompute | loopEmit =>
    cases hi
    simp only [admits, Bool.and_eq_true, beq_iff_eq] at h
    exact h.2
  | _ => cases hi

theorem admits_host_running {ph : Phase} {i : Instr} (h : ph ≠ .ready) :
    admits .host ph i = true ↔ i = .sysReset ∨ i = .sysStart ∨ i = .sysStop ∨ i = .sysStatus := by
  cases i <;> simp [admits, h]

/-- What CAP and PLAY may issue does not depend on the phase. -/
theorem admits_port_phase {a : Agent} (h : a = .cap ∨ a = .play) (ph ph' : Phase) (i : Instr) :
    admits a ph i = admits a ph' i := by
  rcases h with rfl | rfl <;> cases i <;> rfl

/-! What an operation but reset does to a ring buffer -/

/-- What the operation `i` does to the ring buffer `rb` from `s` to `t`: nothing, a push that is rejected or stored, a pop
that finds it empty or takes the oldest Sample (40_ring_buffer.md R111, R112; 44_processing_loop.md R181, R183). -/
inductive RingChange (s t : State) (i : Instr) (rb : RingId) : Prop
  | kept (ring : t.ring rb = s.ring rb)
  | rejected (full : (s.ring rb).occ (s.cap rb) = s.cap rb) (ring : t.ring rb = (s.ring rb).setOvf)
      (op : (∃ v, i = pushOn rb v ∧ t.reply = some .rejected) ∨ (rb = .egress ∧ i = .loopEmit))
  | stored (v : Sample)
      (ring : t.ring rb = { s.ring rb with
        slots := (s.ring rb).slots.write (slotOf (s.cap rb) (s.ring rb).tail) v
        tail := nextIndex (s.cap rb) (s.ring rb).tail })
      (op : i = pushOn rb v ∨ (rb = .egress ∧ i = .loopEmit))
  | empty (ring : t.ring rb = (s.ring rb).setUnf) (op : i = popOn rb) (reply : t.reply = some .empty)
  | taken (ring : t.ring rb = { s.ring rb with head := nextIndex (s.cap rb) (s.ring rb).head })
      (op : i = popOn rb ∨ (rb = .ingress ∧ i = .loopFetch))

theorem ringChange_pushAnswered (s : State) (rb rb' : RingId) (v : Sample) :
    RingChange s (s.pushAnswered rb v) (pushOn rb v) rb' := by
  by_cases h : rb' = rb
  · subst h
    rcases s.pushAnswered_cases rb' v with ⟨hf, hp⟩ | ⟨_, hp⟩
    · exact .rejected hf (by simp [hp]) (.inl ⟨v, rfl, by simp [hp]⟩)
    · exact .stored v (by simp [hp]) (.inl rfl)
  · exact .kept (State.setRing_ring_ne s _ h)

theorem ringChange_popAnswered {s t : State} {rb : RingId} (rb' : RingId) (h : s.popAnswered rb = .next t) :
    RingChange s t (popOn rb) rb' := by
  by_cases hrb : rb' = rb
  · subst hrb
    rcases State.popAnswered_next.mp h with ⟨_, rfl⟩ | ⟨_, v, _, rfl⟩
    · exact .empty (by simp) rfl rfl
    · exact .taken (by simp) (.inl rfl)
  · obtain ⟨r, a, rfl⟩ := State.popAnswered_frame h
    exact .kept (by simp [State.setRing_ring_ne s r hrb])

theorem ringChange_loopFetch {s t : State} (h : Effect .loopFetch s t) (rb : RingId) : RingChange s t .loopFetch rb := by
  rcases h with ⟨_, rfl⟩ | ⟨_, _, rfl⟩ | ⟨_, _, v, _, rfl⟩
  · cases rb <;> exact .kept rfl
  · cases rb <;> exact .kept rfl
  · cases rb
    · exact .taken rfl (.inr ⟨rfl, rfl⟩)
    · exact .kept rfl

theorem ringChange_loopEmit {s t : State} (h : Effect .loopEmit s t) (rb : RingId) : RingChange s t .loopEmit rb := by
  cases h
  cases rb
  · exact .kept rfl
  · rcases Ring.push_cases (s.cap .egress) s.outb s.aHold with ⟨hf, hp⟩ | ⟨_, hp⟩
    · exact .rejected hf (congrArg Prod.fst hp) (.inr ⟨rfl, rfl⟩)
    · exact .stored s.aHold (congrArg Prod.fst hp) (.inr ⟨rfl, rfl⟩)

/-- Everything an operation but `SYS.RESET` does to a ring buffer. -/
theorem exec_ringChange {i : Instr} {s t : State} (h : exec i s = .next t) (hi : i ≠ .sysReset) (rb : RingId) :
    RingChange s t i rb := by
  rcases exec_next.mp h with ⟨_, rfl⟩ | ⟨_, he⟩
  · exact .kept (s.answer_ring _ rb)
  cases i with
  | sysReset => exact absurd rfl hi
  | sysStart => rcases sysStart_cases he with ⟨_, rfl⟩ | ⟨_, rfl⟩ <;> cases rb <;> exact .kept rfl
  | rbPushIn v => cases he; exact ringChange_pushAnswered s .ingress rb v
  | rbPushOut v => cases he; exact ringChange_pushAnswered s .egress rb v
  | rbPopIn => exact ringChange_popAnswered (rb := .ingress) rb he
  | rbPopOut => exact ringChange_popAnswered (rb := .egress) rb he
  | loopFetch => exact ringChange_loopFetch he rb
  | loopEmit => exact ringChange_loopEmit he rb
  | _ => cases he; cases rb <;> exact .kept rfl

/-- Settles O56: the changes of a ring buffer that write a slot are those of a push and of `LOOP.EMIT`. -/
theorem othersLeaveSlotsUnchanged : Obligations.OthersLeaveSlotsUnchanged := by
  intro i s t h hin hout hemit hreset rb j
  cases exec_ringChange h hreset rb with
  | stored v hr hop =>
    rcases hop with rfl | ⟨_, rfl⟩
    · cases rb
      · exact absurd rfl (hin v)
      · exact absurd rfl (hout v)
    · exact absurd rfl hemit
  | kept hr | rejected _ hr | empty hr | taken hr => simp [hr]

/-! The sticky flags (R24) -/

theorem RingChange.flags_kept {s t : State} {i : Instr} {rb : RingId} (h : RingChange s t i rb) :
    ((s.ring rb).ovf = true → (t.ring rb).ovf = true) ∧ ((s.ring rb).unf = true → (t.ring rb).unf = true) := by
  cases h with
  | kept hr | rejected _ hr | stored _ hr | empty hr | taken hr => simp +contextual [hr]

theorem RingChange.ovf_set {s t : State} {i : Instr} {rb : RingId} (h : RingChange s t i rb)
    (h0 : (s.ring rb).ovf = false) (h1 : (t.ring rb).ovf = true) :
    (s.ring rb).occ (s.cap rb) = s.cap rb ∧
      ((∃ v, i = pushOn rb v ∧ t.reply = some .rejected) ∨ (rb = .egress ∧ i = .loopEmit)) := by
  cases h with
  | rejected hf _ hop => exact ⟨hf, hop⟩
  | kept hr | stored _ hr | empty hr | taken hr => simp [hr, h0] at h1

theorem RingChange.unf_set {s t : State} {i : Instr} {rb : RingId} (h : RingChange s t i rb)
    (h0 : (s.ring rb).unf = false) (h1 : (t.ring rb).unf = true) : i = popOn rb ∧ t.reply = some .empty := by
  cases h with
  | empty _ hop hreply => exact ⟨hop, hreply⟩
  | kept hr | rejected _ hr | stored _ hr | taken hr => simp [hr, h0] at h1

/-- A push that is answered `REJECTED` has set the overflow flag of its buffer. -/
theorem ovf_of_rejected {s t : State} {rb : RingId} {v : Sample} (h : exec (pushOn rb v) s = .next t)
    (hr : t.reply = some .rejected) : (t.ring rb).ovf = true := by
  rcases exec_next.mp h with ⟨_, rfl⟩ | ⟨_, he⟩
  · simp at hr
  obtain rfl : t = s.pushAnswered rb v := by cases rb <;> exact he
  rcases s.pushAnswered_cases rb v with ⟨_, hp⟩ | ⟨_, hp⟩
  · simp [hp]
  · simp [hp] at hr

/-- A pop that is answered `EMPTY` has set the underflow flag of its buffer. -/
theorem unf_of_empty {s t : State} {rb : RingId} (h : exec (popOn rb) s = .next t) (hr : t.reply = some .empty) :
    (t.ring rb).unf = true := by
  rcases exec_next.mp h with ⟨_, rfl⟩ | ⟨_, he⟩
  · simp at hr
  have hp : s.popAnswered rb = .next t := by cases rb <;> exact he
  rcases State.popAnswered_next.mp hp with ⟨_, rfl⟩ | ⟨_, v, _, rfl⟩
  · simp
  · simp at hr

/-- The push inside `LOOP.EMIT` that finds `OUT` full sets its overflow flag. -/
theorem ovf_of_loopEmit_full {s t : State} (h : exec .loopEmit s = .next t) (ha : s.issuer = .proc) (hs : s.seq = .emit)
    (hf : s.outb.occ s.cfg.ringOut.cap = s.cfg.ringOut.cap) : t.outb.ovf = true := by
  rcases exec_next.mp h with ⟨hn, _⟩ | ⟨_, rfl⟩
  · simp [admits, ha, hs] at hn
  · simp [Ring.push, hf]

/-! No operation but `SYS.STATUS` reads a flag: it does the same from the state without flags (R24) -/

theorem pushAnswered_withoutFlags (s : State) (rb : RingId) (v : Sample) :
    (s.withoutFlags.pushAnswered rb v).withoutFlags = (s.pushAnswered rb v).withoutFlags := by
  have hcap : (s.withoutFlags.ring rb).occ (s.withoutFlags.cap rb) = (s.ring rb).occ (s.cap rb) := by cases rb <;> rfl
  rcases s.pushAnswered_cases rb v with ⟨h, hp⟩ | ⟨h, hp⟩ <;>
  rcases s.withoutFlags.pushAnswered_cases rb v with ⟨h', hp'⟩ | ⟨h', hp'⟩
  · rw [hp, hp']; cases rb <;> rfl
  · exact absurd (hcap.trans h) h'
  · exact absurd (hcap.symm.trans h') h
  · rw [hp, hp']; cases rb <;> rfl

theorem popAnswered_withoutFlags {s t : State} {rb : RingId} (h : s.popAnswered rb = .next t) :
    ∃ t', s.withoutFlags.popAnswered rb = .next t' ∧ t'.withoutFlags = t.withoutFlags := by
  rcases State.popAnswered_next.mp h with ⟨he, rfl⟩ | ⟨he, v, hv, rfl⟩
  · cases rb <;> exact ⟨_, State.popAnswered_next.mpr (.inl ⟨he, rfl⟩), rfl⟩
  · cases rb <;> exact ⟨_, State.popAnswered_next.mpr (.inr ⟨he, v, hv, rfl⟩), rfl⟩

theorem loopFetch_withoutFlags {s t : State} (h : Effect .loopFetch s t) :
    ∃ t', Effect .loopFetch s.withoutFlags t' ∧ t'.withoutFlags = t.withoutFlags := by
  rcases h with ⟨hs, rfl⟩ | ⟨hs, he, rfl⟩ | ⟨hs, he, v, hv, rfl⟩
  · exact ⟨_, .inl ⟨hs, rfl⟩, rfl⟩
  · exact ⟨_, .inr (.inl ⟨hs, he, rfl⟩), rfl⟩
  · exact ⟨_, .inr (.inr ⟨hs, he, v, hv, rfl⟩), rfl⟩

theorem loopEmit_withoutFlags {s t : State} (h : Effect .loopEmit s t) :
    ∃ t', Effect .loopEmit s.withoutFlags t' ∧ t'.withoutFlags = t.withoutFlags := by
  cases h
  exact ⟨_, rfl, congrArg (fun u : State => { u with seq := .fetch, reply := none })
    (pushAnswered_withoutFlags s .egress s.aHold)⟩

theorem effect_withoutFlags {i : Instr} {s t : State} (h : Effect i s t) (hi : i ≠ .sysStatus) :
    ∃ t', Effect i s.withoutFlags t' ∧ t'.withoutFlags = t.withoutFlags := by
  cases i with
  | sysStatus => exact absurd rfl hi
  | sysReset =>
    cases h
    refine ⟨_, rfl, ?_⟩
    show State.withoutFlags (if s.cfg.ok then _ else _) = State.withoutFlags (if s.cfg.ok then _ else _)
    split <;> rfl
  | sysStart =>
    cases h
    refine ⟨_, rfl, ?_⟩
    show State.withoutFlags (if s.seq = .ready then _ else _) = State.withoutFlags (if s.seq = .ready then _ else _)
    split <;> rfl
  | rbPushIn v => cases h; exact ⟨_, rfl, pushAnswered_withoutFlags s .ingress v⟩
  | rbPushOut v => cases h; exact ⟨_, rfl, pushAnswered_withoutFlags s .egress v⟩
  | rbPopIn => exact popAnswered_withoutFlags (rb := .ingress) h
  | rbPopOut => exact popAnswered_withoutFlags (rb := .egress) h
  | loopFetch => exact loopFetch_withoutFlags h
  | loopEmit => exact loopEmit_withoutFlags h
  | _ => cases h; exact ⟨_, rfl, rfl⟩

theorem exec_withoutFlags {i : Instr} {s t : State} (h : exec i s = .next t) (hi : i ≠ .sysStatus) :
    ∃ t', exec i s.withoutFlags = .next t' ∧ t'.withoutFlags = t.withoutFlags := by
  rcases exec_next.mp h with ⟨hn, rfl⟩ | ⟨ha, he⟩
  · exact ⟨_, exec_unadmitted hn, rfl⟩
  · obtain ⟨t', he', ht'⟩ := effect_withoutFlags he hi
    exact ⟨t', exec_next.mpr (.inr ⟨ha, he'⟩), ht'⟩

/-- Settles O52: who sets a flag is read off `exec_ringChange`, and no operation but `SYS.STATUS` tells a state from the
same state without flags. -/
theorem stickyFlagRule : Obligations.StickyFlagRule := by
  refine ⟨fun i s t h hi => ?_, fun i s t => exec_withoutFlags⟩
  have hc (rb : RingId) : RingChange s t i rb := exec_ringChange h hi rb
  refine ⟨fun rb => (hc rb).flags_kept, fun h0 h1 => ?_, (hc .ingress).unf_set, fun h0 h1 => ?_, (hc .egress).unf_set,
    ?_, ?_, ?_, ?_, ?_⟩
  · obtain ⟨_, ⟨v, hv, hr⟩ | ⟨hrb, _⟩⟩ := (hc .ingress).ovf_set h0 h1
    · exact ⟨⟨v, hv⟩, hr⟩
    · cases hrb
  · obtain ⟨hf, hop | ⟨_, hop⟩⟩ := (hc .egress).ovf_set h0 h1
    · exact ⟨hf, .inl hop⟩
    · exact ⟨hf, .inr hop⟩
  · rintro v rfl; exact ovf_of_rejected (rb := .ingress) h
  · rintro v rfl; exact ovf_of_rejected (rb := .egress) h
  · rintro rfl; exact unf_of_empty (rb := .ingress) h
  · rintro rfl; exact unf_of_empty (rb := .egress) h
  · rintro rfl; exact ovf_of_loopEmit_full h

/-! Who may write what (R38, R77) -/

theorem exec_cap_frame {i : Instr} {s t : State} (h : exec i s = .next t) (ha : s.issuer = .cap) :
    t = { s with inb := { s.inb with slots := t.inb.slots, tail := t.inb.tail, ovf := t.inb.ovf }, reply := t.reply } := by
  rcases exec_next.mp h with ⟨_, rfl⟩ | ⟨hadm, he⟩
  · rfl
  rw [ha] at hadm
  obtain ⟨v, rfl⟩ | rfl := admits_cap.mp hadm
  · cases he
    rcases s.pushAnswered_cases .ingress v with ⟨_, hp⟩ | ⟨_, hp⟩ <;> rw [hp] <;> rfl
  · cases he; rfl

theorem exec_play_frame {i : Instr} {s t : State} (h : exec i s = .next t) (ha : s.issuer = .play) :
    t = { s with outb := { s.outb with head := t.outb.head, unf := t.outb.unf }, reply := t.reply } := by
  rcases exec_next.mp h with ⟨_, rfl⟩ | ⟨hadm, he⟩
  · rfl
  rw [ha] at hadm
  obtain rfl | rfl := admits_play.mp hadm
  · rcases State.popAnswered_next.mp he with ⟨_, rfl⟩ | ⟨_, v, _, rfl⟩ <;> rfl
  · cases he; rfl

/-- A LOOP step leaves `IN` but for its head, `OUT`'s head and underflow flag, and `STOP` as they were. -/
theorem exec_proc_frame {i : Instr} {s t : State} (h : exec i s = .next t) (ha : s.issuer = .proc) :
    t.inb.slots = s.inb.slots ∧ t.inb.tail = s.inb.tail ∧ t.inb.ovf = s.inb.ovf ∧ t.inb.unf = s.inb.unf ∧
      t.outb.head = s.outb.head ∧ t.outb.unf = s.outb.unf ∧ t.stop = s.stop := by
  rcases exec_next.mp h with ⟨_, rfl⟩ | ⟨hadm, he⟩
  · simp
  rw [ha] at hadm
  have hloop := admits_proc.mp hadm
  cases i with
  | loopFetch => rcases he with ⟨_, rfl⟩ | ⟨_, _, rfl⟩ | ⟨_, _, v, _, rfl⟩ <;> simp
  | loopCompute => cases he; simp
  | loopEmit =>
    cases he
    rcases Ring.push_cases (s.cap .egress) s.outb s.aHold with ⟨_, hp⟩ | ⟨_, hp⟩ <;> rw [hp] <;> simp
  | _ => simp [loopPhase] at hloop

theorem exec_host_running_frame {i : Instr} {s t : State} (h : exec i s = .next t) (ha : s.issuer = .host)
    (hs : s.seq ≠ .ready) (hi : i ≠ .sysReset) : t = { s with stop := t.stop, reply := t.reply } := by
  rcases exec_next.mp h with ⟨_, rfl⟩ | ⟨hadm, he⟩
  · rfl
  rw [ha] at hadm
  obtain rfl | rfl | rfl | rfl := (admits_host_running hs).mp hadm
  · exact absurd rfl hi
  · obtain ⟨hr, _⟩ | ⟨_, rfl⟩ := sysStart_cases he
    · exact absurd hr hs
    · rfl
  · cases he; rfl
  · cases he; rfl

theorem exec_host_frame {i : Instr} {s t : State} (h : exec i s = .next t) (ha : s.issuer = .host)
    (hi : i ≠ .sysReset) : t = { s with
      inb := { s.inb with head := t.inb.head, unf := t.inb.unf }
      outb := { s.outb with slots := t.outb.slots, tail := t.outb.tail, ovf := t.outb.ovf }
      quad := t.quad, prevRe := t.prevRe, prevIm := t.prevIm, wI := t.wI, wQ := t.wQ, wO := t.wO
      seq := t.seq, stop := t.stop, reply := t.reply } := by
  rcases exec_next.mp h with ⟨_, rfl⟩ | ⟨hadm, he⟩
  · rfl
  rw [ha] at hadm
  cases i with
  | sysReset => exact absurd rfl hi
  | sysStart => rcases sysStart_cases he with ⟨_, rfl⟩ | ⟨_, rfl⟩ <;> rfl
  | rbPopIn => rcases State.popAnswered_next.mp he with ⟨_, rfl⟩ | ⟨_, v, _, rfl⟩ <;> rfl
  | rbPushOut v =>
    cases he
    rcases s.pushAnswered_cases .egress v with ⟨_, hp⟩ | ⟨_, hp⟩ <;> rw [hp] <;> rfl
  | rbPushIn | rbPopOut | loopFetch | loopCompute | loopEmit => simp [admits] at hadm
  | _ => cases he; rfl

/-- Settles O53, agent by agent: each may issue few operations, and each of those writes what the agent may write. -/
theorem agentsWriteOnlyTheirState : Obligations.AgentsWriteOnlyTheirState := fun _ _ _ h =>
  ⟨exec_cap_frame h, exec_play_frame h, exec_proc_frame h, exec_host_running_frame h,
    fun ha _ => exec_host_frame h ha⟩

/-! `STOP`, the phase and the configuration (R30, R31, R33) -/

/-- Settles O51: of the operations that HOST may issue only two write `STOP`. -/
theorem stopFlagRule : Obligations.StopFlagRule := by
  intro i s t h hne
  rcases exec_next.mp h with ⟨_, rfl⟩ | ⟨hadm, he⟩
  · exact absurd rfl hne
  cases i with
  | sysStop => cases he; exact ⟨by simpa [admits] using hadm, .inl ⟨rfl, rfl⟩⟩
  | sysReset =>
    obtain rfl | rfl := sysReset_cases he
    · exact ⟨by simpa [admits] using hadm, .inr ⟨rfl, rfl⟩⟩
    · exact absurd rfl hne
  | sysStart => obtain ⟨_, rfl⟩ | ⟨_, rfl⟩ := sysStart_cases he <;> exact absurd rfl hne
  | rbPopIn | rbPopOut => obtain ⟨r, a, rfl⟩ := State.popAnswered_frame he; simp at hne
  | loopFetch => rcases he with ⟨_, rfl⟩ | ⟨_, _, rfl⟩ | ⟨_, _, v, _, rfl⟩ <;> exact absurd rfl hne
  | _ => cases he; exact absurd rfl hne

/-- Settles O49: a LOOP step is admitted in its own phase alone, and the other operations but `SYS.START` and `SYS.RESET`
leave the phase as it is. -/
theorem phaseChangesAreExactly : Obligations.PhaseChangesAreExactly := by
  refine ⟨fun i s t h hne => ?_, rfl⟩
  rcases exec_next.mp h with ⟨_, rfl⟩ | ⟨hadm, he⟩
  · exact absurd rfl hne
  cases i with
  | sysReset =>
    obtain rfl | rfl := sysReset_cases he
    · cases s.seq <;> rfl
    · exact absurd rfl hne
  | sysStart =>
    obtain ⟨hs, rfl⟩ | ⟨_, rfl⟩ := sysStart_cases he
    · rw [hs]; rfl
    · exact absurd rfl hne
  | loopFetch =>
    have hs : s.seq = .fetch := phase_of_admits_loop hadm rfl
    rcases he with ⟨_, rfl⟩ | ⟨_, _, rfl⟩ | ⟨_, _, v, _, rfl⟩
    · rw [hs]; rfl
    · exact absurd rfl hne
    · rw [hs]; rfl
  | loopCompute =>
    have hs : s.seq = .compute := phase_of_admits_loop hadm rfl
    cases he; rw [hs]; rfl
  | loopEmit =>
    have hs : s.seq = .emit := phase_of_admits_loop hadm rfl
    cases he; rw [hs]; rfl
  | rbPopIn | rbPopOut => obtain ⟨r, a, rfl⟩ := State.popAnswered_frame he; simp at hne
  | _ => cases he; exact absurd rfl hne

theorem exec_cfg {i : Instr} {s t : State} (h : exec i s = .next t) : t.cfg = s.cfg := by
  rcases exec_next.mp h with ⟨_, rfl⟩ | ⟨_, he⟩
  · rfl
  cases i with
  | sysReset => obtain rfl | rfl := sysReset_cases he <;> rfl
  | sysStart => obtain ⟨_, rfl⟩ | ⟨_, rfl⟩ := sysStart_cases he <;> rfl
  | rbPopIn | rbPopOut => obtain ⟨r, a, rfl⟩ := State.popAnswered_frame he; simp
  | loopFetch => rcases he with ⟨_, rfl⟩ | ⟨_, _, rfl⟩ | ⟨_, _, v, _, rfl⟩ <;> rfl
  | _ => cases he; rfl

@[simp] theorem State.setPort_port (s : State) (a : Agent) : s.setPort a (s.port a) = s := by cases a <;> rfl

/-- Whatever the issuer does next, it does in the state with some bytes taken off its port and the last response dropped. -/
theorem fetch_state (s : State) :
    ∃ bs, (∃ i, s.fetch = .command i (s.noAnswer.setPort s.issuer bs)) ∨
      s.fetch = .reserved (s.noAnswer.setPort s.issuer bs) ∨ s.fetch = .nothing (s.noAnswer.setPort s.issuer bs) := by
  have hnone : s.noAnswer.setPort s.issuer (s.noAnswer.port s.issuer) = s.noAnswer := State.setPort_port _ _
  rcases fetch_cases s with ⟨_, ⟨i, _, hf⟩ | ⟨_, hf⟩⟩ | ⟨_, ⟨i, rest, _, hf⟩ | ⟨b, rest, _, hf⟩ | ⟨_, hf⟩⟩
  · exact ⟨_, .inl ⟨i, by rw [hnone, hf]⟩⟩
  · exact ⟨_, .inr (.inr (by rw [hnone, hf]))⟩
  · exact ⟨rest, .inl ⟨i, hf⟩⟩
  · exact ⟨rest, .inr (.inl hf)⟩
  · exact ⟨_, .inr (.inr (by rw [hnone, hf]))⟩

/-- What a step does from that state: one operation, the answer to a reserved byte, or nothing; then the turn ends. -/
theorem step_cases {s t : State} (h : step s = .next t) :
    ∃ bs, (∃ i v, exec i (s.noAnswer.setPort s.issuer bs) = .next v ∧ t = v.endTurn) ∨
      t = ((s.noAnswer.setPort s.issuer bs).answer .refused).endTurn ∨ t = (s.noAnswer.setPort s.issuer bs).endTurn := by
  obtain ⟨bs, ⟨i, hf⟩ | hf | hf⟩ := fetch_state s <;> rw [step, hf] at h
  · exact ⟨bs, .inl ⟨i, endStep_next.mp h⟩⟩
  · exact ⟨bs, .inr (.inl (next_eq_next.mp h))⟩
  · exact ⟨bs, .inr (.inr (next_eq_next.mp h))⟩

/-- Settles O48: taking bytes off a port, an operation and the end of a turn each keep the configuration. -/
theorem configurationIsFixed : Obligations.ConfigurationIsFixed := by
  intro s t h
  obtain ⟨bs, ⟨i, v, he, rfl⟩ | rfl | rfl⟩ := step_cases h
  · simpa using exec_cfg he
  · simp
  · simp

/-- Two machines with the same buffer answer a push on it alike. -/
theorem pushAnswered_reply_congr {s s' : State} {rb : RingId} (hring : s'.ring rb = s.ring rb)
    (hcap : s'.cap rb = s.cap rb) (v : Sample) : (s'.pushAnswered rb v).reply = (s.pushAnswered rb v).reply := by
  simp [State.pushAnswered, hring, hcap]

/-- Two machines with the same buffer answer a pop from it alike. -/
theorem popAnswered_reply_congr {s s' t : State} {rb : RingId} (hring : s'.ring rb = s.ring rb)
    (hcap : s'.cap rb = s.cap rb) (h : s.popAnswered rb = .next t) :
    ∃ t', s'.popAnswered rb = .next t' ∧ t'.reply = t.reply := by
  rcases State.popAnswered_next.mp h with ⟨he, rfl⟩ | ⟨he, v, hv, rfl⟩
  · exact ⟨_, State.popAnswered_next.mpr (.inl ⟨by rwa [hring], rfl⟩), rfl⟩
  · exact ⟨_, State.popAnswered_next.mpr (.inr ⟨by rwa [hring], v, by rwa [hring, hcap], rfl⟩), rfl⟩

/-- Settles O54: CAP and PLAY may issue the same operations in every phase, and each is answered from one ring buffer. -/
theorem privateStateIsHidden : Obligations.PrivateStateIsHidden := by
  intro i s s' t ha hissuer hcfg hin hout h
  have hcap (rb : RingId) : s'.cap rb = s.cap rb := by rw [State.cap, State.cap, hcfg]
  have hadm : admits s'.issuer s'.seq i = admits s.issuer s.seq i := by
    rw [hissuer]; exact admits_port_phase ha _ _ _
  rcases exec_next.mp h with ⟨hn, rfl⟩ | ⟨hy, he⟩
  · exact ⟨_, exec_unadmitted (hadm.trans hn), rfl⟩
  suffices heff : ∃ t', Effect i s' t' ∧ t'.reply = t.reply by
    obtain ⟨t', he', hr⟩ := heff
    exact ⟨t', exec_next.mpr (.inr ⟨hadm.trans hy, he'⟩), hr⟩
  rcases ha with ha | ha <;> rw [ha] at hy
  · obtain ⟨v, rfl⟩ | rfl := admits_cap.mp hy <;> cases he
    · exact ⟨_, rfl, pushAnswered_reply_congr (rb := .ingress) hin (hcap _) v⟩
    · exact ⟨_, rfl, by simp [State.emptyAnswered, hin]⟩
  · obtain rfl | rfl := admits_play.mp hy
    · exact popAnswered_reply_congr (rb := .egress) hout (hcap _) he
    · cases he; exact ⟨_, rfl, by simp [State.emptyAnswered, hout]⟩

/-! Pops that fault, and the machine right after reset (R36) -/

/-- Settles O17: an admitted pop is the pop of its buffer, which faults. -/
theorem popOfUnwrittenSlotFaults : Obligations.PopOfUnwrittenSlotFaults := by
  refine fun s => ⟨fun he hv => ⟨fun ha hs => ?_, fun ha hs hstop => ?_⟩, fun he hv ha => ?_⟩
  · exact (guarded_admitted (by simp [admits, ha, hs])).trans (State.popAnswered_fault (rb := .ingress) he hv)
  · have hpop : s.inb.pop s.cfg.ringIn.cap = .error .unwrittenSlot := Ring.pop_unwritten he hv
    refine (guarded_admitted (by simp [admits, ha, hs])).trans ?_
    simp [hstop, Ring.isEmpty, he, hpop]
  · exact (guarded_admitted (by simp [admits, ha])).trans (State.popAnswered_fault (rb := .egress) he hv)

theorem ringCfg_ok {r : RingCfg} : r.ok = true ↔ 1 ≤ r.cap ∧ r.pre ≤ r.cap := by
  simp [RingCfg.ok]

theorem Ring.occ_construct {r : RingCfg} (h : r.ok = true) : (Ring.construct r).occ r.cap = r.pre := by
  obtain ⟨hcap, hpre⟩ := ringCfg_ok.mp h
  have hmod : ((r.pre : Int) - (0 : Nat)) % (2 * r.cap : Int) = r.pre := Int.emod_eq_of_lt (by omega) (by omega)
  simp only [Ring.occ, Ring.construct, hmod, Int.toNat_natCast]

/-- A ring buffer right after construction meets its invariant: the contents are the pre-filled slots (40_ring_buffer.md
R114, R115). -/
theorem Ring.inv_construct {r : RingCfg} (h : r.ok = true) : (Ring.construct r).Inv r.cap := by
  obtain ⟨hcap, hpre⟩ := ringCfg_ok.mp h
  exact {
    canonical := Slots.prefilled_wf _
    inSpace := fun p hp => (Slots.mem_prefilled hp).1.trans_le hpre
    head_lt := by show 0 < _; omega
    tail_lt := by show r.pre < _; omega
    occ_le := (Ring.occ_construct h).trans_le hpre
    written := fun j hj => by
      rw [Ring.occ_construct h] at hj
      have hslot : slotOf r.cap (0 + j) = j := by rw [slotOf, zero_add, Nat.mod_eq_of_lt (by omega)]
      show ((Slots.prefilled r.pre).read (slotOf r.cap (0 + j))).isSome
      rw [hslot, Slots.read_prefilled hj, Option.isSome_some] }

theorem State.inv_construct {c : Cfg} (h : c.ok = true) : (State.construct c).Inv := by
  have ⟨hin, hout⟩ : c.ringIn.ok = true ∧ c.ringOut.ok = true := by
    simp only [Cfg.ok, Bool.and_eq_true] at h
    tauto
  exact {
    cfgOk := h
    ingress := Ring.inv_construct hin
    egress := Ring.inv_construct hout
    lenI := List.length_replicate
    lenQ := List.length_replicate
    lenO := List.length_replicate }

/-- Settles O45: each ring buffer and each history is constructed as the invariant asks. -/
theorem invAtReset : Obligations.InvAtReset :=
  ⟨fun _ => State.inv_construct, rfl, by decide⟩

/-! The histories (R27) -/

/-- The history after the inputs `xs` holds them newest first, in front of what it held, cut to the tap count. -/
theorem State.firProcess_hist (s : State) (f : FirId) (xs : List Sample) (h : (s.hist f).length ≤ (s.cfg.fir f).taps) :
    (s.firProcess f xs).1.hist f = (xs.reverse ++ s.hist f).take (s.cfg.fir f).taps := by
  induction xs generalizing s with
  | nil => exact (List.take_of_length_le h).symm
  | cons x xs ih =>
    have hstep : (s.firStep f x).1.hist f = (x :: s.hist f).take (s.cfg.fir f).taps := s.setHist_hist f _
    have hlen : ((s.firStep f x).1.hist f).length ≤ ((s.firStep f x).1.cfg.fir f).taps := by
      rw [hstep, State.firStep_cfg]; exact List.length_take_le _ _
    rw [State.firProcess, ih _ hlen, State.firStep_cfg, hstep, List.reverse_cons, List.append_assoc]
    simp [List.take_append, List.take_take]

theorem State.construct_hist (c : Cfg) (f : FirId) :
    (State.construct c).hist f = List.replicate (c.fir f).taps posZero := by cases f <;> rfl

/-- Settles O26: from reset the history is cut out of the inputs, newest first, in front of `+0`s. -/
theorem firHistoryIsLastInputs : Obligations.FirHistoryIsLastInputs := by
  intro c f xs k hk
  have hist : ((State.construct c).firProcess f xs).1.hist f =
      (xs.reverse ++ List.replicate (c.fir f).taps posZero).take (c.fir f).taps := by
    have hlen : ((State.construct c).hist f).length = (c.fir f).taps := by
      rw [State.construct_hist, List.length_replicate]
    rw [State.firProcess_hist _ f xs hlen.le, State.construct_hist]
    rfl
  rw [hist]
  refine ⟨by simp, ?_⟩
  rw [List.getElem?_take_of_lt hk]
  by_cases hx : k < xs.length
  · have hlt : xs.length - 1 - k < xs.length := by omega
    rw [List.getElem?_append_left (by simpa using hx), List.getElem?_reverse hx, if_pos hx]
    simp [hlt]
  · have hlt : k - xs.length < (c.fir f).taps := by omega
    rw [List.getElem?_append_right (by simpa using hx), if_neg hx]
    simp [hlt]

end Sys2Proof.Machine
end

section
/-! PROOFS. The rules of 20_memory.md: a ring buffer is a first-in first-out queue, which `Ring.Represents` relates to it;
no pop of a state with the invariant faults; a store reaches the tail's slot alone; and a port's command is performed. -/

namespace Sys2Proof.Machine

/-! Index arithmetic (10_state.md R22, R23; 20_memory.md R78) -/

theorem slotOf_congr {cap x y : Nat} (h : x ≡ y [MOD 2 * cap]) : slotOf cap x = slotOf cap y :=
  h.of_mul_left 2

theorem nextIndex_modEq (cap x : Nat) : nextIndex cap x ≡ x + 1 [MOD 2 * cap] := Nat.mod_modEq _ _

theorem nextIndex_lt {cap : Nat} (h : 0 < cap) (x : Nat) : nextIndex cap x < 2 * cap := Nat.mod_lt _ (by omega)

/-- Indices less than `CAP` apart address different slots. -/
theorem slotOf_add_inj {cap h j k : Nat} (hj : j < cap) (hk : k < cap) (heq : slotOf cap (h + j) = slotOf cap (h + k)) :
    j = k :=
  (Nat.ModEq.add_left_cancel' h heq).eq_of_lt_of_lt hj hk

/-- The occupancy is the distance from the head forward to the tail. -/
theorem Ring.occ_eq {cap : Nat} {r : Ring} {n : Nat} (hn : n < 2 * cap) (h : r.tail ≡ r.head + n [MOD 2 * cap]) :
    r.occ cap = n := by
  have hmod : ((r.tail : Int) - r.head) % (2 * cap : Int) = n := by
    have hint : (r.tail : Int) ≡ r.head + n [ZMOD 2 * cap] := by exact_mod_cast Int.natCast_modEq_iff.mpr h
    have hsub := hint.sub_right r.head
    rw [add_sub_cancel_left] at hsub
    exact Eq.trans hsub (Int.emod_eq_of_lt (by omega) (by omega))
  rw [Ring.occ, hmod, Int.toNat_natCast]

theorem Ring.tail_modEq {cap : Nat} (hcap : 0 < cap) (r : Ring) : r.tail ≡ r.head + r.occ cap [MOD 2 * cap] := by
  have hocc : (r.occ cap : Int) = ((r.tail : Int) - r.head) % (2 * cap : Int) :=
    Int.toNat_of_nonneg (Int.emod_nonneg _ (by omega))
  refine Int.natCast_modEq_iff.mp ?_
  push_cast
  rw [hocc]
  simpa using ((Int.mod_modEq ((r.tail : Int) - r.head) (2 * cap)).add_left r.head).symm

/-! What the invariant says of one ring buffer (40_ring_buffer.md R114) -/

theorem Ring.Inv.cap_pos {cap : Nat} {r : Ring} (h : r.Inv cap) : 0 < cap := by have := h.head_lt; omega

theorem Ring.Inv.occ_lt {cap : Nat} {r : Ring} (h : r.Inv cap) (hroom : r.occ cap ≠ cap) : r.occ cap < cap :=
  lt_of_le_of_ne h.occ_le hroom

theorem Ring.Inv.occ_eq_zero_iff {cap : Nat} {r : Ring} (h : r.Inv cap) : r.occ cap = 0 ↔ r.head = r.tail := by
  refine ⟨fun h0 => ?_, fun he => Ring.occ_eq (by have := h.cap_pos; omega) (by rw [he, Nat.add_zero])⟩
  have ht := r.tail_modEq h.cap_pos
  rw [h0, Nat.add_zero] at ht
  exact (ht.eq_of_lt_of_lt h.tail_lt h.head_lt).symm

theorem Ring.Inv.head_written {cap : Nat} {r : Ring} (h : r.Inv cap) (he : r.head ≠ r.tail) :
    (r.slots.read (slotOf cap r.head)).isSome :=
  h.written 0 (Nat.pos_of_ne_zero fun h0 => he (h.occ_eq_zero_iff.mp h0))

theorem Ring.Inv.setOvf {cap : Nat} {r : Ring} (h : r.Inv cap) : r.setOvf.Inv cap := { h with }

theorem Ring.Inv.setUnf {cap : Nat} {r : Ring} (h : r.Inv cap) : r.setUnf.Inv cap := { h with }

theorem Ring.length_contents (cap : Nat) (r : Ring) : (r.contents cap).length = r.occ cap := by simp [Ring.contents]

theorem Ring.written_iff (cap : Nat) (r : Ring) :
    (∀ j, j < r.occ cap → (r.slots.read (slotOf cap (r.head + j))).isSome) ↔ ∀ x ∈ r.contents cap, x.isSome := by
  simp [Ring.contents]

/-! The two moves of a ring buffer: a push that is accepted, a pop that gives a Sample -/

/-- The ring buffer with `v` stored in the tail's slot and the tail advanced (40_ring_buffer.md R111). -/
def Ring.store (cap : Nat) (r : Ring) (v : Sample) : Ring :=
  { r with slots := r.slots.write (slotOf cap r.tail) v, tail := nextIndex cap r.tail }

/-- The ring buffer with the head advanced (40_ring_buffer.md R112). -/
def Ring.advance (cap : Nat) (r : Ring) : Ring := { r with head := nextIndex cap r.head }

theorem Ring.push_full {cap : Nat} {r : Ring} (h : r.occ cap = cap) (v : Sample) : r.push cap v = (r.setOvf, false) :=
  if_pos h

theorem Ring.push_room {cap : Nat} {r : Ring} (h : r.occ cap ≠ cap) (v : Sample) : r.push cap v = (r.store cap v, true) :=
  if_neg h

theorem Ring.pop_empty {cap : Nat} {r : Ring} (h : r.head = r.tail) : r.pop cap = .ok (r.setUnf, none) :=
  if_pos (decide_eq_true h)

theorem Ring.pop_written {cap : Nat} {r : Ring} {v : Sample} (h : r.head ≠ r.tail)
    (hv : r.slots.read (slotOf cap r.head) = some v) : r.pop cap = .ok (r.advance cap, some v) := by
  simp [Ring.pop, Ring.isEmpty, h, hv, Ring.advance]

section Store
variable {cap : Nat} {r : Ring} (h : r.Inv cap) (hroom : r.occ cap ≠ cap) (v : Sample)
include h hroom

theorem Ring.Inv.occ_store : (r.store cap v).occ cap = r.occ cap + 1 := by
  have hlt := h.occ_lt hroom
  exact Ring.occ_eq (by omega) ((nextIndex_modEq cap r.tail).trans ((r.tail_modEq h.cap_pos).add_right 1))

/-- The slot written is none of the contents' own, and the contents now end there. -/
theorem Ring.Inv.contents_store : (r.store cap v).contents cap = r.contents cap ++ [some v] := by
  have hlt := h.occ_lt hroom
  have htail : slotOf cap r.tail = slotOf cap (r.head + r.occ cap) := slotOf_congr (r.tail_modEq h.cap_pos)
  have hold : ∀ j ∈ List.range (r.occ cap), (r.store cap v).slots.read (slotOf cap (r.head + j)) =
      r.slots.read (slotOf cap (r.head + j)) := by
    intro j hj
    have hj := List.mem_range.mp hj
    exact Slots.read_write_other _ v fun heq => hj.ne (slotOf_add_inj (hj.trans hlt) hlt (heq.trans htail))
  have hnew : (r.store cap v).slots.read (slotOf cap (r.head + r.occ cap)) = some v :=
    htail ▸ Slots.read_write_same _ _ v
  calc (r.store cap v).contents cap
      = (List.range (r.occ cap + 1)).map fun j => (r.store cap v).slots.read (slotOf cap (r.head + j)) := by
        rw [Ring.contents, h.occ_store hroom]; rfl
    _ = r.contents cap ++ [some v] := by
        rw [List.range_succ, List.map_append, List.map_congr_left hold, List.map_singleton, hnew]; rfl

theorem Ring.Inv.store : (r.store cap v).Inv cap where
  canonical := Slots.write_wf h.canonical _ _
  inSpace p hp := by
    rcases Slots.mem_write hp with rfl | hp
    · exact Nat.mod_lt _ h.cap_pos
    · exact h.inSpace p hp
  head_lt := h.head_lt
  tail_lt := nextIndex_lt h.cap_pos _
  occ_le := (h.occ_store hroom v).trans_le (h.occ_lt hroom)
  written := by
    rw [Ring.written_iff, h.contents_store hroom]
    have hold := (r.written_iff cap).mp h.written
    simpa [or_imp, forall_and] using hold

end Store

section Advance
variable {cap : Nat} {r : Ring} (h : r.Inv cap) (hne : r.head ≠ r.tail)

theorem Ring.advance_head_modEq (cap : Nat) (r : Ring) (j : Nat) :
    (r.advance cap).head + j ≡ r.head + (j + 1) [MOD 2 * cap] := by
  rw [Nat.add_comm j 1, ← Nat.add_assoc]
  exact (nextIndex_modEq cap r.head).add_right j

include h hne

theorem Ring.Inv.occ_advance : r.occ cap = (r.advance cap).occ cap + 1 := by
  obtain ⟨n, hn⟩ := Nat.exists_eq_succ_of_ne_zero (mt h.occ_eq_zero_iff.mp hne)
  have hle := h.occ_le
  have htail : r.tail ≡ (r.advance cap).head + n [MOD 2 * cap] :=
    (hn ▸ r.tail_modEq h.cap_pos).trans (r.advance_head_modEq cap n).symm
  rw [hn, Ring.occ_eq (by omega) htail]

theorem Ring.Inv.contents_advance :
    r.contents cap = r.slots.read (slotOf cap r.head) :: (r.advance cap).contents cap := by
  rw [Ring.contents, h.occ_advance hne, List.range_succ_eq_map, List.map_cons, List.map_map]
  exact congrArg _ (List.map_congr_left fun j _ => congrArg _ (slotOf_congr (r.advance_head_modEq cap j)).symm)

theorem Ring.Inv.advance : (r.advance cap).Inv cap where
  canonical := h.canonical
  inSpace := h.inSpace
  head_lt := nextIndex_lt h.cap_pos _
  tail_lt := h.tail_lt
  occ_le := (Nat.le_succ _).trans ((h.occ_advance hne).symm.trans_le h.occ_le)
  written := by
    rw [Ring.written_iff]
    have hall := (r.written_iff cap).mp h.written
    rw [h.contents_advance hne] at hall
    exact fun x hx => hall x (List.mem_cons_of_mem _ hx)

end Advance

/-! The simulation of a queue (40_ring_buffer.md R116) -/

/-- The ring buffer meets its invariant and stands for the queue `q` of Samples, oldest first. -/
structure Ring.Represents (cap : Nat) (r : Ring) (q : List Sample) : Prop where
  inv : r.Inv cap
  contents : r.contents cap = q.map some

section Represents
variable {cap : Nat} {r : Ring} {q : List Sample} {v : Sample}

theorem Ring.Represents.occ (h : r.Represents cap q) : r.occ cap = q.length := by
  rw [← r.length_contents, h.contents, List.length_map]

theorem Ring.Represents.push_full (h : r.Represents cap q) (v : Sample) (hlen : q.length = cap) :
    ∃ r', r.push cap v = (r', false) ∧ r'.Represents cap q :=
  ⟨_, Ring.push_full (h.occ.trans hlen) v, h.inv.setOvf, h.contents⟩

theorem Ring.Represents.push_room (h : r.Represents cap q) (v : Sample) (hlen : q.length ≠ cap) :
    ∃ r', r.push cap v = (r', true) ∧ r'.Represents cap (q ++ [v]) := by
  have hroom : r.occ cap ≠ cap := h.occ.trans_ne hlen
  exact ⟨_, Ring.push_room hroom v, h.inv.store hroom v, by simp [h.inv.contents_store hroom, h.contents]⟩

theorem Ring.Represents.pop_nil (h : r.Represents cap []) : ∃ r', r.pop cap = .ok (r', none) ∧ r'.Represents cap [] :=
  ⟨_, Ring.pop_empty (h.inv.occ_eq_zero_iff.mp h.occ), h.inv.setUnf, h.contents⟩

theorem Ring.Represents.pop_cons (h : r.Represents cap (v :: q)) :
    ∃ r', r.pop cap = .ok (r', some v) ∧ r'.Represents cap q := by
  have hne : r.head ≠ r.tail := fun he => by simpa [h.occ] using h.inv.occ_eq_zero_iff.mpr he
  obtain ⟨hv, hq⟩ := List.cons.inj ((h.inv.contents_advance hne).symm.trans h.contents)
  exact ⟨_, Ring.pop_written hne hv, h.inv.advance hne, hq⟩

/-- A run of pushes and pops on a ring buffer and on the queue it stands for answers alike and ends alike. -/
theorem Ring.Represents.runOps (h : r.Represents cap q) (ops : List RingOp) :
    ∃ r', r.runOps cap ops = .ok (r', (queueRun cap q ops).2) ∧ r'.Represents cap (queueRun cap q ops).1 := by
  induction ops generalizing r q with
  | nil => exact ⟨r, by simp [Ring.runOps, queueRun], by simpa [queueRun] using h⟩
  | cons op ops ih =>
    cases op with
    | push v =>
      by_cases hlen : q.length = cap
      · obtain ⟨r₁, hp, h₁⟩ := h.push_full v hlen
        obtain ⟨r₂, hrun, h₂⟩ := ih h₁
        exact ⟨r₂, by simp [Ring.runOps, queueRun, hlen, hp, hrun], by simpa [queueRun, hlen] using h₂⟩
      · obtain ⟨r₁, hp, h₁⟩ := h.push_room v hlen
        obtain ⟨r₂, hrun, h₂⟩ := ih h₁
        exact ⟨r₂, by simp [Ring.runOps, queueRun, hlen, hp, hrun], by simpa [queueRun, hlen] using h₂⟩
    | pop =>
      cases q with
      | nil =>
        obtain ⟨r₁, hp, h₁⟩ := h.pop_nil
        obtain ⟨r₂, hrun, h₂⟩ := ih h₁
        exact ⟨r₂, by simp [Ring.runOps, queueRun, hp, hrun], by simpa [queueRun] using h₂⟩
      | cons v q =>
        obtain ⟨r₁, hp, h₁⟩ := h.pop_cons
        obtain ⟨r₂, hrun, h₂⟩ := ih h₁
        exact ⟨r₂, by simp [Ring.runOps, queueRun, hp, hrun], by simpa [queueRun] using h₂⟩

end Represents

/-- Settles O20: each push and each pop keeps `Ring.Represents`, by induction on the operations. -/
theorem ringRefinesQueue : Obligations.RingRefinesQueue := by
  intro cap r q ops hinv hq
  obtain ⟨r', hrun, h'⟩ := Ring.Represents.runOps ⟨hinv, hq⟩ ops
  exact ⟨r', hrun, h'.inv, h'.contents⟩

/-! No step of a state with the invariant stops (R70, R79) -/

/-- Taking bytes off a port and dropping the last response keep the invariant. -/
theorem State.Inv.consume {s : State} (h : s.Inv) (a : Agent) (bs : List Byte) : (s.noAnswer.setPort a bs).Inv where
  cfgOk := by simpa using h.cfgOk
  ingress := by simpa using h.ingress
  egress := by simpa using h.egress
  lenI := by simpa using h.lenI
  lenQ := by simpa using h.lenQ
  lenO := by simpa using h.lenO

theorem exists_popAnswered_next {s : State} {rb : RingId} (h : (s.ring rb).Inv (s.cap rb)) :
    ∃ t, s.popAnswered rb = .next t := by
  by_cases he : (s.ring rb).head = (s.ring rb).tail
  · exact ⟨_, State.popAnswered_next.mpr (.inl ⟨he, rfl⟩)⟩
  · obtain ⟨v, hv⟩ := Option.isSome_iff_exists.mp (h.head_written he)
    exact ⟨_, State.popAnswered_next.mpr (.inr ⟨he, v, hv, rfl⟩)⟩

theorem exists_effect_loopFetch {s : State} (h : s.inb.Inv (s.cap .ingress)) : ∃ t, Effect .loopFetch s t := by
  cases hs : s.stop with
  | true => exact ⟨_, .inl ⟨hs, rfl⟩⟩
  | false =>
    by_cases he : s.inb.head = s.inb.tail
    · exact ⟨_, .inr (.inl ⟨hs, he, rfl⟩)⟩
    · obtain ⟨v, hv⟩ := Option.isSome_iff_exists.mp (h.head_written he)
      exact ⟨_, .inr (.inr ⟨hs, he, v, hv, rfl⟩)⟩

theorem State.Inv.exists_exec_next {s : State} (h : s.Inv) (i : Instr) : ∃ t, exec i s = .next t := by
  cases hadm : admits s.issuer s.seq i with
  | false => exact ⟨_, exec_unadmitted hadm⟩
  | true =>
    suffices heff : ∃ t, Effect i s t from heff.imp fun t he => exec_next.mpr (.inr ⟨hadm, he⟩)
    cases i with
    | rbPopIn => exact exists_popAnswered_next (rb := .ingress) h.ingress
    | rbPopOut => exact exists_popAnswered_next (rb := .egress) h.egress
    | loopFetch => exact exists_effect_loopFetch h.ingress
    | _ => exact ⟨_, rfl⟩

/-- Settles O47: whatever the step performs, it performs in a state with the invariant, in which no pop faults. -/
theorem invStepNeverStops : Obligations.InvStepNeverStops := by
  intro s h
  obtain ⟨bs, ⟨i, hf⟩ | hf | hf⟩ := fetch_state s
  · obtain ⟨v, hv⟩ := (h.consume s.issuer bs).exists_exec_next i
    exact ⟨_, step_next.mpr (.inl ⟨i, _, v, hf, hv, rfl⟩)⟩
  · exact ⟨_, step_next.mpr (.inr (.inl ⟨_, hf, rfl⟩))⟩
  · exact ⟨_, step_next.mpr (.inr (.inr ⟨_, hf, rfl⟩))⟩

/-! Where a store lands (R61) -/

theorem RingChange.read_of_ne_tail {s t : State} {i : Instr} {rb : RingId} (h : RingChange s t i rb) {j : Nat}
    (hj : j ≠ slotOf (s.cap rb) (s.ring rb).tail) : (t.ring rb).slots.read j = (s.ring rb).slots.read j := by
  cases h with
  | stored v hr => rw [hr]; exact Slots.read_write_other _ v hj
  | kept hr | rejected _ hr | empty hr | taken hr => simp [hr]

/-- An operation that does not push on a ring buffer leaves its slots as they are. -/
theorem RingChange.slots_of_no_push {s t : State} {i : Instr} {rb : RingId} (h : RingChange s t i rb)
    (hpush : ∀ v, i ≠ pushOn rb v) (hemit : rb = .egress → i ≠ .loopEmit) : (t.ring rb).slots = (s.ring rb).slots := by
  cases h with
  | stored v _ hop =>
    rcases hop with hop | ⟨hrb, hop⟩
    · exact absurd hop (hpush v)
    · exact absurd hop (hemit hrb)
  | kept hr | rejected _ hr | empty hr | taken hr => simp [hr]

/-- Settles O55: both halves of each clause are read off what the operation does to each ring buffer. -/
theorem storesReachOnlyTheTailSlot : Obligations.StoresReachOnlyTheTailSlot := by
  refine fun s t v j => ⟨fun h => ?_, fun h => ?_⟩
  · have hc := exec_ringChange h nofun
    exact ⟨fun hj => (hc .ingress).read_of_ne_tail hj,
      congrArg (·.read j) ((hc .egress).slots_of_no_push nofun nofun)⟩
  · obtain ⟨i, hi, hreset, hpush⟩ : ∃ i, exec i s = .next t ∧ i ≠ .sysReset ∧ ∀ v, i ≠ .rbPushIn v := by
      rcases h with h | h
      · exact ⟨_, h, nofun, nofun⟩
      · exact ⟨_, h, nofun, nofun⟩
    have hc := exec_ringChange hi hreset
    exact ⟨fun hj => (hc .egress).read_of_ne_tail hj,
      congrArg (·.read j) ((hc .ingress).slots_of_no_push hpush nofun)⟩

/-! The command on a port (R67) -/

theorem fetch_of_decode {s : State} {i : Instr} {rest : List Byte} (ha : s.issuer ≠ .proc)
    (h : decode (s.port s.issuer) = .instr i rest) : s.fetch = .command i (s.noAnswer.setPort s.issuer rest) := by
  rcases fetch_cases s with ⟨hp, _⟩ | ⟨_, ⟨i', rest', hd, hf⟩ | ⟨b, rest', hd, _⟩ | ⟨hd, _⟩⟩
  · exact absurd hp ha
  · cases h.symm.trans hd; exact hf
  · cases h.symm.trans hd
  · cases h.symm.trans hd

/-- Settles O7: the command is fetched from the issuer's port, and `exec` leaves the schedule for the turn's end to pop. -/
theorem stepRunsDecodedCommand : Obligations.StepRunsDecodedCommand := by
  intro s a later i rest hsched ha hdec
  have hissuer : s.issuer = a := by simp [State.issuer, hsched]
  subst hissuer
  have hstep : step s = endStep (exec i ({ s with reply := none }.setPort s.issuer rest)) := by
    rw [step, fetch_of_decode ha hdec]; rfl
  rw [hstep]
  cases hexec : exec i ({ s with reply := none }.setPort s.issuer rest) with
  | next t =>
    have ht : t.schedule = s.issuer :: later := by rw [(exec_interface hexec).1, State.setPort_schedule, ← hsched]
    simp [endStep, State.endTurn, ht]
  | fault e => rfl
  | refused r => rfl

end Sys2Proof.Machine
end

section
/-! PROOFS. The rules of 30_encoding.md. A command byte's form says what the encoder and the decoder do alike
(`encode_make`, `decode_commandBytes`), so that they are inverse to each other; the admission table by bytes is the one by
operations; and the pseudo-operations of R102 are runs of operations. -/

namespace Sys2Proof

/-! Data words as bytes (20_memory.md R62) -/

theorem bytesOfWord_wordOfBytes (b0 b1 b2 b3 : Byte) :
    Operands.bytesOfWord (Operands.wordOfBytes b0 b1 b2 b3) = [b0, b1, b2, b3] := by
  have hlow {n : Nat} (hi : BitVec n) (lo : Byte) : (hi ++ lo).extractLsb' 0 8 = lo := by
    simp [BitVec.extractLsb'_append_eq_of_add_le]
  have hhigh {n : Nat} (hi : BitVec n) (lo : Byte) (k : Nat) :
      (hi ++ lo).extractLsb' (8 * (k + 1)) 8 = hi.extractLsb' (8 * k) 8 := by
    rw [BitVec.extractLsb'_append_eq_of_le (by omega)]; rfl
  have h0 : Operands.byteOf (b3 ++ b2 ++ b1 ++ b0) 0 = b0 := hlow _ _
  have h1 : Operands.byteOf (b3 ++ b2 ++ b1 ++ b0) 1 = b1 := (hhigh _ _ 0).trans (hlow _ _)
  have h2 : Operands.byteOf (b3 ++ b2 ++ b1 ++ b0) 2 = b2 := (hhigh _ _ 1).trans ((hhigh _ _ 0).trans (hlow _ _))
  have h3 : Operands.byteOf (b3 ++ b2 ++ b1 ++ b0) 3 = b3 :=
    (hhigh _ _ 2).trans ((hhigh _ _ 1).trans ((hhigh b3 _ 0).trans BitVec.extractLsb'_eq_self))
  rw [Operands.wordOfBytes, Operands.bytesOfWord, h0, h1, h2, h3]

theorem wordOfBytes_byteOf (w : Word) :
    Operands.wordOfBytes (Operands.byteOf w 0) (Operands.byteOf w 1) (Operands.byteOf w 2) (Operands.byteOf w 3) = w := by
  unfold Operands.wordOfBytes Operands.byteOf
  rw [BitVec.extractLsb'_append_extractLsb'_eq_extractLsb' (by rfl),
    BitVec.extractLsb'_append_extractLsb'_eq_extractLsb' (by rfl),
    BitVec.extractLsb'_append_extractLsb'_eq_extractLsb' (by rfl)]
  exact BitVec.extractLsb'_eq_self

/-! The form of a command byte (30_encoding.md R91, R97) -/

/-- The operation a form makes of two data words, as many of them as the format has. -/
def Form.make : Form → Word → Word → Instr
  | .c i, _, _ => i
  | .cd f, d0, _ => f d0
  | .cdd f, d0, d1 => f d0 d1

/-- The form of an operation, which its command byte alone decides (`formOf_cmdByte`). -/
def Instr.form : Instr → Form
  | .rbPushIn _ => .cd .rbPushIn
  | .rbPushOut _ => .cd .rbPushOut
  | .ddcMix _ => .cd .ddcMix
  | .firStepI _ => .cd .firStepI
  | .firStepQ _ => .cd .firStepQ
  | .firStepO _ => .cd .firStepO
  | .discStep _ _ => .cdd .discStep
  | i => .c i

/-- The data word `k` of an operation, zero beyond those it has. -/
def Instr.data (i : Instr) (k : Nat) : Word := i.operands.getD k 0

theorem formOf_cmdByte (i : Instr) : formOf i.cmdByte = some i.form := by
  cases i <;> simp only [Instr.cmdByte, Instr.fields] <;> rfl

theorem make_form (i : Instr) : i.form.make (i.data 0) (i.data 1) = i := by cases i <;> rfl

theorem bytes_form (i : Instr) : i.form.bytes = (encode i).length := by cases i <;> rfl

theorem commandLength_cmdByte (i : Instr) : commandLength i.cmdByte = (encode i).length := by
  simp [commandLength, formOf_cmdByte, bytes_form]

/-- The 18 bytes of the table are the operations', all others are reserved (30_encoding.md R92, R99). -/
theorem formOf_isSome (b : Byte) : (formOf b).isSome = true ↔ b ∈ Machine.operationBytes := by
  revert b; decide

/-! What encoder and decoder do with a form's command bytes -/

section Form
variable {b : Byte} {f : Form} (h : formOf b = some f) (d0 d1 : Word)
include h

theorem commandBytes_of_form : commandBytes b d0 d1 =
    (b :: (Operands.bytesOfWord d0 ++ Operands.bytesOfWord d1)).take f.bytes := by
  simp [commandBytes, commandLength, h]

/-- The encoder, command byte by command byte of the table (30_encoding.md R92). -/
theorem encode_make : encode (f.make d0 d1) = commandBytes b d0 d1 := by
  have hb : b ∈ Machine.operationBytes := (formOf_isSome b).mp (by simp [h])
  rw [commandBytes_of_form h]
  simp only [Machine.operationBytes, List.mem_cons, List.not_mem_nil, or_false] at hb
  rcases hb with rfl | rfl | rfl | rfl | rfl | rfl | rfl | rfl | rfl | rfl | rfl | rfl | rfl | rfl | rfl | rfl | rfl |
    rfl
  all_goals
    cases h
    simp [encode, Form.make, Form.bytes, Instr.cmdByte, Instr.fields, Instr.operands, Operands.bytesOfWord]

theorem decode_commandBytes (rest : List Byte) :
    decode (commandBytes b d0 d1 ++ rest) = .instr (f.make d0 d1) rest := by
  rw [commandBytes_of_form h]
  cases f <;> simp [decode, h, Form.bytes, Form.make, Operands.bytesOfWord, wordOfBytes_byteOf]

end Form

theorem encode_eq_commandBytes (i : Instr) : encode i = commandBytes i.cmdByte (i.data 0) (i.data 1) := by
  rw [← encode_make (formOf_cmdByte i), make_form]

/-- Whatever decodes to an operation is the command bytes of a form and two data words, which make that operation. -/
theorem commandBytes_of_decode {bs rest : List Byte} {i : Instr} (h : decode bs = .instr i rest) :
    ∃ b f d0 d1, formOf b = some f ∧ i = f.make d0 d1 ∧ bs = commandBytes b d0 d1 ++ rest := by
  cases bs with
  | nil => cases h
  | cons b bs =>
    cases hf : formOf b with
    | none => simp [decode, hf] at h
    | some f =>
      cases f with
      | c j =>
        simp only [decode, hf] at h
        cases h
        exact ⟨b, _, 0, 0, hf, rfl, by rw [commandBytes_of_form hf]; rfl⟩
      | cd g =>
        simp only [decode, hf] at h
        split at h <;> cases h
        exact ⟨b, _, _, 0, hf, rfl, by rw [commandBytes_of_form hf, bytesOfWord_wordOfBytes]; rfl⟩
      | cdd g =>
        simp only [decode, hf] at h
        split at h <;> cases h
        exact ⟨b, _, _, _, hf, rfl, by
          rw [commandBytes_of_form hf, bytesOfWord_wordOfBytes, bytesOfWord_wordOfBytes]; rfl⟩

/-- Settles O2: an operation's bytes are the command bytes of its form, which the decoder reads back. -/
theorem decodeOfEncode : Obligations.DecodeOfEncode := by
  intro i rest
  rw [encode_eq_commandBytes, decode_commandBytes (formOf_cmdByte i), make_form]

/-- Settles O3: what was decoded is a form's command bytes, which are the encoding of the operation it makes. -/
theorem encodeOfDecode : Obligations.EncodeOfDecode := by
  intro bs i rest h
  obtain ⟨b, f, d0, d1, hf, rfl, rfl⟩ := commandBytes_of_decode h
  rw [encode_make hf]

/-! The command as one bit vector (30_encoding.md R91) -/

/-- A table word that holds the command byte, `d0` and `d1` from its top bit down gives the bytes of that command. -/
theorem tableBytes_eq {nbits w : Nat} {b : Byte} {d0 d1 : Word} (hlen : 8 * commandLength b = nbits)
    (hw : w <<< (72 - nbits) >>> (nbits - 72) = (b.toNat * 2 ^ 32 + d0.toNat) * 2 ^ 32 + d1.toNat) :
    tableBytes nbits w = commandBytes b d0 d1 := by
  generalize hwhole : (b.toNat * 2 ^ 32 + d0.toNat) * 2 ^ 32 + d1.toNat = whole at hw
  have htop : BitVec.ofNat 8 (whole >>> 64) = b := by
    apply BitVec.eq_of_toNat_eq; simp [Nat.shiftRight_eq_div_pow]; omega
  have h0 : BitVec.ofNat 32 (whole >>> 32) = d0 := by
    apply BitVec.eq_of_toNat_eq; simp [Nat.shiftRight_eq_div_pow]; omega
  have h1 : BitVec.ofNat 32 whole = d1 := by
    apply BitVec.eq_of_toNat_eq; simp; omega
  unfold tableBytes
  simp only [hw, htop, h0, h1]
  exact if_neg fun h => h.1 hlen

theorem commandBits_eq (i : Instr) : commandBits i = 8 * (encode i).length := by
  rw [Laws.Format.length_encode, commandBits]; ring

/-- Moved up to 72 bits, the command's bits have its data words, zero where it has none, below the command byte. -/
theorem commandWord_shiftLeft (i : Instr) : commandWord i <<< (72 - commandBits i) >>> (commandBits i - 72) =
    (i.cmdByte.toNat * 2 ^ 32 + (i.data 0).toNat) * 2 ^ 32 + (i.data 1).toNat := by
  have hlen : i.operands.length ≤ 2 := by cases i <;> simp [Instr.operands]
  unfold commandWord commandBits Instr.data
  match i.operands, hlen with
  | [], _ => simp [Nat.shiftLeft_eq]; ring
  | [w], _ => simp [Nat.shiftLeft_eq]
  | [w, w'], _ => simp

theorem tableBytes_commandWord (i : Instr) : tableBytes (commandBits i) (commandWord i) = encode i := by
  rw [encode_eq_commandBytes]
  exact tableBytes_eq (by rw [commandLength_cmdByte, commandBits_eq]) (commandWord_shiftLeft i)

/-- Settles O4: the bytes of the command's word are its encoding, which decodes to it. -/
theorem commandWordDecodes : Obligations.CommandWordDecodes := by
  intro i
  have hdec : decode (encode i) = .instr i [] := by simpa using decodeOfEncode i []
  rw [decodeTableWord, tableBytes_commandWord, hdec]
  exact if_pos (commandBits_eq i).le

/-- Settles O1: `encode_make` for the commands with data words. -/
theorem encodingTable : Obligations.EncodingTable := by
  intro x y
  refine ⟨⟨rfl, rfl, rfl, rfl⟩, ⟨?_, rfl, rfl, ?_, rfl, rfl⟩, ⟨?_, ?_, ?_, ?_, ?_⟩, ⟨rfl, rfl, rfl⟩,
    bytesOfWord_wordOfBytes⟩
  · exact encode_make (b := 0x20#8) rfl x 0
  · exact encode_make (b := 0x28#8) rfl x 0
  · exact encode_make (b := 0x40#8) rfl x 0
  · exact encode_make (b := 0x60#8) rfl x 0
  · exact encode_make (b := 0x68#8) rfl x 0
  · exact encode_make (b := 0x70#8) rfl x 0
  · exact encode_make (b := 0x80#8) rfl x y

/-- Settles O5: each of the words is the encoding of its operation. -/
theorem writtenCommandsDecode : Obligations.WrittenCommandsDecode := by
  refine ⟨?_, ?_, ?_, ?_, ?_, ?_, ?_⟩
  · exact decodeOfEncode (.rbPushIn 0x3F000000#32) []
  · exact decodeOfEncode .rbPopOut []
  · exact decodeOfEncode (.ddcMix 0x3E800000#32) []
  · exact decodeOfEncode (.firStepO 0x3F800000#32) []
  · exact decodeOfEncode (.discStep 0x3F800000#32 0xBF800000#32) []
  · exact decodeOfEncode .sysStatus []
  · exact decodeOfEncode .loopEmit []

end Sys2Proof

namespace Sys2Proof.Machine

/-! A reserved byte on a port (30_encoding.md R99) -/

theorem fetch_of_reserved {s : State} {b : Byte} {rest : List Byte} (ha : s.issuer ≠ .proc)
    (h : decode (s.port s.issuer) = .reserved b rest) : s.fetch = .reserved (s.noAnswer.setPort s.issuer rest) := by
  rcases fetch_cases s with ⟨hp, _⟩ | ⟨_, ⟨i, rest', hd, _⟩ | ⟨b', rest', hd, hf⟩ | ⟨hd, _⟩⟩
  · exact absurd hp ha
  · cases h.symm.trans hd
  · cases h.symm.trans hd; exact hf
  · cases h.symm.trans hd

/-- Settles O6: a byte without a form is taken off the port alone, and the turn ends with its answer. -/
theorem reservedByteIsRefused : Obligations.ReservedByteIsRefused := by
  refine ⟨by decide, rfl, fun s a later b rest hsched ha hport hb => ?_⟩
  have hissuer : s.issuer = a := by simp [State.issuer, hsched]
  subst hissuer
  have hform : formOf b = none := by simpa using mt (formOf_isSome b).mp hb
  have hdec : decode (s.port s.issuer) = .reserved b rest := by rw [hport, decode, hform]
  rw [step, fetch_of_reserved ha hdec]
  cases h : s.issuer <;> simp [State.answer, State.endTurn, State.noAnswer, State.setPort, hsched]

/-! Admission by command byte (30_encoding.md R100) -/

/-- The table by bytes is the one by operations, byte by byte: admission does not look at the data words. -/
theorem mem_admittedBytes_iff_any (a : Agent) (ph : Phase) :
    ∀ b ∈ operationBytes, b ∈ admittedBytes a ph ↔ (formOf b).any fun f => admits a ph (f.make 0 0) := by
  cases a <;> cases ph <;> decide

theorem admits_make_form (a : Agent) (ph : Phase) (i : Instr) : admits a ph (i.form.make 0 0) = admits a ph i := by
  cases i <;> rfl

theorem cmdByte_mem_admittedBytes (a : Agent) (ph : Phase) (i : Instr) :
    i.cmdByte ∈ admittedBytes a ph ↔ admits a ph i = true := by
  have hop : i.cmdByte ∈ operationBytes := (formOf_isSome _).mp (by simp [formOf_cmdByte])
  rw [mem_admittedBytes_iff_any a ph _ hop, formOf_cmdByte, Option.any_some, admits_make_form]

/-- Settles O9: a byte outside the issuer's row is a command that the issuer is not admitted to. -/
theorem unadmittedCommandIsRefused : Obligations.UnadmittedCommandIsRefused := by
  intro i s h
  exact exec_unadmitted (by simpa [cmdByte_mem_admittedBytes] using h)

/-- What an admitted operation may be refused for: the other responses are `OK`, `REJECTED` and `EMPTY`. -/
theorem refused_of_effect {i : Instr} {s t : State} (h : Effect i s t) (hr : t.reply = some .refused) :
    (i = .sysStart ∧ s.seq ≠ .ready) ∨ (i = .sysReset ∧ s.cfg.ok = false) := by
  cases i with
  | sysReset =>
    refine .inr ⟨rfl, ?_⟩
    by_contra hok
    rw [h.trans (if_pos (by simpa using hok))] at hr
    cases hr
  | sysStart =>
    obtain ⟨_, rfl⟩ | ⟨hne, _⟩ := sysStart_cases h
    · cases hr
    · exact .inl ⟨rfl, hne⟩
  | rbPushIn v | rbPushOut v =>
    cases h
    obtain ⟨_, h⟩ | ⟨_, h⟩ := State.pushAnswered_cases s _ v <;> rw [h] at hr <;> cases hr
  | rbPopIn | rbPopOut =>
    obtain ⟨_, rfl⟩ | ⟨_, v, _, rfl⟩ := State.popAnswered_next.mp h <;> cases hr
  | loopFetch => obtain ⟨_, rfl⟩ | ⟨_, _, rfl⟩ | ⟨_, _, v, _, rfl⟩ := h <;> cases hr
  | _ => cases h; cases hr

/-- Settles O10: the byte's row admits the operation, so `REFUSED` comes from the operation itself. -/
theorem admittedCommandIsRefusedOnlyByRule : Obligations.AdmittedCommandIsRefusedOnlyByRule := by
  intro i s t hmem h hr
  have hadm : admits s.issuer s.seq i = true := (cmdByte_mem_admittedBytes _ _ _).mp hmem
  rcases exec_next.mp h with ⟨hno, _⟩ | ⟨_, he⟩
  · rw [hadm] at hno; cases hno
  · exact refused_of_effect he hr

/-! `RB.DRAIN` (30_encoding.md R102) -/

/-- Draining takes the queue's Samples one by one; the last pop finds the buffer empty. -/
theorem Ring.Represents.drain {cap : Nat} {r : Ring} {q : List Sample} (h : r.Represents cap q) :
    ∃ r', r.drain cap (q.length + 1) = .ok (r', q) ∧ r'.Represents cap [] ∧ r'.unf = true := by
  induction q generalizing r with
  | nil =>
    have hp := Ring.pop_empty (cap := cap) (h.inv.occ_eq_zero_iff.mp h.occ)
    exact ⟨r.setUnf, by simp [Ring.drain, hp], ⟨h.inv.setUnf, h.contents⟩, rfl⟩
  | cons v q ih =>
    obtain ⟨r₁, hp, h₁⟩ := h.pop_cons
    obtain ⟨r₂, hd, h₂⟩ := ih h₁
    exact ⟨r₂, by rw [List.length_cons, Ring.drain, hp]; simp [hd], h₂⟩

theorem Ring.Inv.exists_represents {cap : Nat} {r : Ring} (h : r.Inv cap) : ∃ q, r.Represents cap q := by
  refine ⟨(r.contents cap).filterMap id, h, ?_⟩
  rw [List.map_filterMap_some_eq_filter_map_isSome, List.map_id]
  exact (List.filter_eq_self.mpr ((r.written_iff cap).mp h.written)).symm

/-- Settles O21: the contents are a queue of Samples, which the drain works off. -/
theorem drainGivesContents : Obligations.DrainGivesContents := by
  intro cap r h
  obtain ⟨q, hq⟩ := h.exists_represents
  obtain ⟨r', hd, h', hunf⟩ := hq.drain
  exact ⟨r', q, hq.occ ▸ hd, hq.contents.symm, h'.contents, hunf⟩

/-! HOST's unit commands in `READY`, one after the other: none reads the response of the one before it
(30_encoding.md R102) -/

/-- The step of a FIR filter. -/
def firOn : FirId → Sample → Instr
  | .i, x => .firStepI x
  | .q, x => .firStepQ x
  | .o, x => .firStepO x

section Unit
variable {s : State} (ha : s.issuer = .host) (hs : s.seq = .ready)
include ha hs

theorem exec_of_admits_host_ready {i : Instr} {t : State} (hi : admits .host .ready i = true) (h : Effect i s t) :
    exec i s = .next t :=
  exec_next.mpr (.inr ⟨by rw [ha, hs, hi], h⟩)

theorem exec_firOn_answer (a : Response) (f : FirId) (x : Sample) :
    exec (firOn f x) (s.answer a) = .next ((s.firStep f x).1.answer (.ok [(s.firStep f x).2])) := by
  cases f <;> exact exec_of_admits_host_ready (s := s.answer a) ha hs rfl rfl

theorem exec_discStep_answer (a : Response) (re0 im0 : Sample) :
    exec (.discStep re0 im0) (s.answer a) =
      .next ((s.discStep re0 im0).1.answer (.ok [(s.discStep re0 im0).2])) :=
  exec_of_admits_host_ready (s := s.answer a) ha hs rfl rfl

end Unit

/-- Settles O41: the five commands are the stages of `Pipe`, each with its result in the response. -/
theorem pipeSampleIsFiveCommands : Obligations.PipeSampleIsFiveCommands := by
  intro s x ha hs
  exact ⟨_, _, _, _, _, _, _, _, _, _, _,
    exec_of_admits_host_ready ha hs rfl rfl, rfl,
    exec_firOn_answer (by simpa using ha) (by simpa using hs) _ .i _, rfl,
    exec_firOn_answer (by simpa using ha) (by simpa using hs) _ .q _, rfl,
    exec_discStep_answer (by simpa using ha) (by simpa using hs) _ _ _, rfl,
    exec_firOn_answer (by simpa using ha) (by simpa using hs) _ .o _, rfl, rfl⟩

end Sys2Proof.Machine
end

section
/-! PROOFS. The rules of 40_ring_buffer.md: what the three operations give on either buffer, what they do to the contents,
and the invariant, which every update of the state and so every operation and every step keeps. -/

namespace Sys2Proof.Machine

/-! The responses of the three operations (R111, R112, R113) -/

/-- Full is where the occupancy, as the rule writes it a subtraction of integers, is `CAP` (10_state.md R23). -/
theorem Ring.occ_eq_cap_iff {cap : Nat} (hcap : 1 ≤ cap) (r : Ring) :
    r.occ cap = cap ↔ ((r.tail : Int) - r.head) % (2 * cap) = cap := by
  have hnonneg : 0 ≤ ((r.tail : Int) - r.head) % (2 * cap) := Int.emod_nonneg _ (by omega)
  rw [Ring.occ]
  omega

section Admitted
variable {s : State} {rb : RingId} {v : Sample}

theorem exec_pushOn (hadm : admits s.issuer s.seq (pushOn rb v) = true) :
    exec (pushOn rb v) s = .next (s.pushAnswered rb v) := by
  cases rb <;> exact guarded_admitted hadm

theorem exec_popOn (hadm : admits s.issuer s.seq (popOn rb) = true) : exec (popOn rb) s = s.popAnswered rb := by
  cases rb <;> exact guarded_admitted hadm

theorem exec_push_full (hadm : admits s.issuer s.seq (pushOn rb v) = true) (hcap : 1 ≤ s.cap rb)
    (hocc : (((s.ring rb).tail : Int) - (s.ring rb).head) % (2 * s.cap rb) = s.cap rb) :
    exec (pushOn rb v) s = .next ((s.setRing rb (s.ring rb).setOvf).answer .rejected) := by
  have hfull : (s.ring rb).occ (s.cap rb) = s.cap rb := ((s.ring rb).occ_eq_cap_iff hcap).mpr hocc
  simp [exec_pushOn hadm, State.pushAnswered, Ring.push_full hfull]

theorem exec_push_room (hadm : admits s.issuer s.seq (pushOn rb v) = true) (hcap : 1 ≤ s.cap rb)
    (hocc : (((s.ring rb).tail : Int) - (s.ring rb).head) % (2 * s.cap rb) ≠ s.cap rb) :
    exec (pushOn rb v) s = .next ((s.setRing rb ((s.ring rb).store (s.cap rb) v)).answer (.ok [])) := by
  have hroom : (s.ring rb).occ (s.cap rb) ≠ s.cap rb := mt ((s.ring rb).occ_eq_cap_iff hcap).mp hocc
  simp [exec_pushOn hadm, State.pushAnswered, Ring.push_room hroom]

theorem exec_pop_empty (hadm : admits s.issuer s.seq (popOn rb) = true) (he : (s.ring rb).head = (s.ring rb).tail) :
    exec (popOn rb) s = .next ((s.setRing rb (s.ring rb).setUnf).answer .empty) :=
  (exec_popOn hadm).trans (State.popAnswered_next.mpr (.inl ⟨he, rfl⟩))

theorem exec_pop_written (hadm : admits s.issuer s.seq (popOn rb) = true) (he : (s.ring rb).head ≠ (s.ring rb).tail)
    (hv : (s.ring rb).slots.read (slotOf (s.cap rb) (s.ring rb).head) = some v) :
    exec (popOn rb) s = .next ((s.setRing rb ((s.ring rb).advance (s.cap rb))).answer (.ok [v])) :=
  (exec_popOn hadm).trans (State.popAnswered_next.mpr (.inr ⟨he, v, hv, rfl⟩))

end Admitted

/-- Settles O15: an admitted push, on a full buffer and on one with room. -/
theorem rbPushResult : Obligations.RbPushResult := by
  refine ⟨fun v s ha hcap => ?_, fun v s ha hs hcap => ?_⟩
  · have hadm : admits s.issuer s.seq (pushOn .ingress v) = true := by simp [pushOn, admits, ha]
    exact ⟨exec_push_full hadm hcap, exec_push_room hadm hcap⟩
  · have hadm : admits s.issuer s.seq (pushOn .egress v) = true := by simp [pushOn, admits, ha, hs]
    exact ⟨exec_push_full hadm hcap, exec_push_room hadm hcap⟩

/-- Settles O16: an admitted pop, from an empty buffer and from one whose oldest slot was written. -/
theorem rbPopResult : Obligations.RbPopResult := by
  refine ⟨fun s ha hs => ?_, fun s ha => ?_⟩
  · have hadm : admits s.issuer s.seq (popOn .ingress) = true := by simp [popOn, admits, ha, hs]
    exact ⟨exec_pop_empty hadm, fun _ => exec_pop_written hadm⟩
  · have hadm : admits s.issuer s.seq (popOn .egress) = true := by simp [popOn, admits, ha]
    exact ⟨exec_pop_empty hadm, fun _ => exec_pop_written hadm⟩

theorem State.emptyAnswered_eq (s : State) (rb : RingId) :
    s.emptyAnswered rb = s.answer (.ok [if (s.ring rb).head = (s.ring rb).tail then 1#32 else 0#32]) := by
  simp [State.emptyAnswered, boolWord, Ring.isEmpty]

/-- Settles O18: either end of a buffer is admitted to its emptiness test, which only answers. -/
theorem rbEmptyResult : Obligations.RbEmptyResult := by
  refine ⟨fun s ha => ?_, fun s ha => ?_⟩
  · have hadm : admits s.issuer s.seq .rbEmptyIn = true := by simpa [admits] using ha
    exact exec_next.mpr (.inr ⟨hadm, (s.emptyAnswered_eq .ingress).symm⟩)
  · have hadm : admits s.issuer s.seq .rbEmptyOut = true := by simpa [admits] using ha
    exact exec_next.mpr (.inr ⟨hadm, (s.emptyAnswered_eq .egress).symm⟩)

/-! The contents (R116) -/

theorem Ring.Inv.contents_eq_nil_iff {cap : Nat} {r : Ring} (h : r.Inv cap) : r.contents cap = [] ↔ r.head = r.tail := by
  rw [← h.occ_eq_zero_iff, ← r.length_contents, List.length_eq_zero_iff]

/-- Settles O19: the length of the contents is the occupancy, which says which of its moves the buffer makes. -/
theorem contentsBehaveAsQueue : Obligations.ContentsBehaveAsQueue := by
  intro cap r h
  rw [r.length_contents]
  refine ⟨fun v hlt => ?_, fun v hfull => ?_, fun v q hq => ?_, fun hnil => ?_, ?_⟩
  · rw [Ring.push_room hlt.ne]
    exact ⟨rfl, h.store hlt.ne v, h.contents_store hlt.ne v⟩
  · rw [Ring.push_full hfull]
    exact ⟨rfl, h.setOvf, rfl⟩
  · have hne : r.head ≠ r.tail := by simp [← h.contents_eq_nil_iff, hq]
    obtain ⟨hv, htail⟩ := List.cons.inj ((h.contents_advance hne).symm.trans hq)
    exact ⟨_, Ring.pop_written hne hv, h.advance hne, htail⟩
  · exact ⟨_, Ring.pop_empty (h.contents_eq_nil_iff.mp hnil), h.setUnf, hnil⟩
  · rw [h.contents_eq_nil_iff, Ring.isEmpty, decide_eq_true_iff]

/-! Every update of the state keeps the invariant (R114; 10_state.md R27) -/

theorem Ring.Inv.push {cap : Nat} {r : Ring} (h : r.Inv cap) (v : Sample) : (r.push cap v).1.Inv cap := by
  by_cases hfull : r.occ cap = cap
  · rw [Ring.push_full hfull]; exact h.setOvf
  · rw [Ring.push_room hfull]; exact h.store hfull v

theorem length_firShift {n : Nat} {w : List Sample} (h : w.length = n) (x : Sample) : (firShift n w x).length = n := by
  simp [firShift, h]

section Updates
variable {s : State} (h : s.Inv)
include h

theorem State.Inv.ring (rb : RingId) : (s.ring rb).Inv (s.cap rb) := by
  cases rb
  · exact h.ingress
  · exact h.egress

theorem State.Inv.answer (a : Response) : (s.answer a).Inv := { h with }

theorem State.Inv.endTurn : s.endTurn.Inv := { h with }

theorem State.Inv.setRing {rb : RingId} {r : Ring} (hr : r.Inv (s.cap rb)) : (s.setRing rb r).Inv := by
  cases rb
  · exact { h with ingress := hr }
  · exact { h with egress := hr }

theorem State.Inv.mixStep (x : Sample) : (s.mixStep x).1.Inv := { h with }

theorem State.Inv.discStep (re0 im0 : Sample) : (s.discStep re0 im0).1.Inv := { h with }

theorem State.Inv.firStep (f : FirId) (x : Sample) : (s.firStep f x).1.Inv := by
  cases f
  · exact { h with lenI := length_firShift h.lenI x }
  · exact { h with lenQ := length_firShift h.lenQ x }
  · exact { h with lenO := length_firShift h.lenO x }

theorem State.Inv.pipe (x : Sample) : (s.pipe x).1.Inv :=
  ((((h.mixStep x).firStep .i _).firStep .q _).discStep _ _).firStep .o _

theorem State.Inv.pushAnswered (rb : RingId) (v : Sample) : (s.pushAnswered rb v).Inv :=
  (h.setRing ((h.ring rb).push v)).answer _

theorem State.Inv.of_popAnswered {rb : RingId} {t : State} (hp : s.popAnswered rb = .next t) : t.Inv := by
  rcases State.popAnswered_next.mp hp with ⟨_, rfl⟩ | ⟨hne, v, _, rfl⟩
  · exact (h.setRing (h.ring rb).setUnf).answer _
  · exact (h.setRing ((h.ring rb).advance hne)).answer _

theorem State.Inv.reconstruct : s.reconstruct.Inv := { State.inv_construct h.cfgOk with }

/-- Every admitted operation keeps the invariant. -/
theorem State.Inv.of_effect {i : Instr} {t : State} (he : Effect i s t) : t.Inv := by
  cases i with
  | sysReset =>
    rcases sysReset_cases he with rfl | rfl
    · exact h.reconstruct.answer _
    · exact h.answer _
  | sysStart => rcases sysStart_cases he with ⟨_, rfl⟩ | ⟨_, rfl⟩ <;> exact { h with }
  | sysStop => cases he; exact { h with }
  | sysStatus | rbEmptyIn | rbEmptyOut => cases he; exact h.answer _
  | rbPushIn v | rbPushOut v => cases he; exact h.pushAnswered _ v
  | rbPopIn | rbPopOut => exact h.of_popAnswered he
  | ddcMix x => cases he; exact (h.mixStep x).answer _
  | firStepI x | firStepQ x | firStepO x => cases he; exact (h.firStep _ x).answer _
  | discStep re0 im0 => cases he; exact (h.discStep re0 im0).answer _
  | loopFetch =>
    rcases he with ⟨_, rfl⟩ | ⟨_, _, rfl⟩ | ⟨_, hne, v, _, rfl⟩
    · exact { h with }
    · exact { h with }
    · exact { h with ingress := h.ingress.advance hne }
  | loopCompute => cases he; exact { h.pipe s.sHold with }
  | loopEmit => cases he; exact { h with egress := h.egress.push s.aHold }

theorem State.Inv.of_exec {i : Instr} {t : State} (hx : exec i s = .next t) : t.Inv := by
  rcases exec_next.mp hx with ⟨_, rfl⟩ | ⟨_, he⟩
  · exact h.answer _
  · exact h.of_effect he

end Updates

/-- Settles O46: taking bytes off a port, an operation, an answer and the end of a turn each keep the invariant. -/
theorem stepKeepsInv : Obligations.StepKeepsInv := by
  intro s t h hstep
  obtain ⟨bs, ⟨i, v, hx, rfl⟩ | rfl | rfl⟩ := step_cases hstep
  · exact ((h.consume s.issuer bs).of_exec hx).endTurn
  · exact ((h.consume s.issuer bs).answer _).endTurn
  · exact (h.consume s.issuer bs).endTurn

end Sys2Proof.Machine
end

section
/-! PROOFS. The rules of 41_downconverter.md: the four rows of the mixer table as one quarter turn after another, the
quadrant's count of the consumed samples, and the operations that advance it. -/

namespace Sys2Proof.Fp

theorem value_fneg (x : Sample) : value (fneg x) = -value x := by
  rw [value_eq_intUnits, value_eq_intUnits, intUnits_fneg, Int.cast_neg, neg_div]

theorem value_posZero : value posZero = 0 := by
  simp [value_eq_intUnits, show intUnits posZero = 0 by decide]

end Sys2Proof.Fp

namespace Sys2Proof.Machine

/-! `DDC.MIX` (R130, R131, R132) -/

/-- What HOST's `DDC.MIX` in `READY` gives, whatever the quadrant. -/
theorem exec_ddcMix {s : State} (ha : s.issuer = .host) (hs : s.seq = .ready) (x : Sample) :
    exec (.ddcMix x) s =
      .next { s with quad := s.quad + 1, reply := some (.ok [(mix s.quad x).1, (mix s.quad x).2]) } :=
  exec_of_admits_host_ready ha hs rfl rfl

/-- Settles O22: the quadrant picks the row of `mix` and advances by one, the last one round to the first. -/
theorem ddcMixResult : Obligations.DdcMixResult := by
  intro x s ha hs
  rw [exec_ddcMix ha hs]
  refine ⟨fun hq => ?_, fun hq => ?_, fun hq => ?_, fun hq => ?_⟩ <;> rw [hq] <;> rfl

/-! The quadrant as a count of samples (R132, R135) -/

theorem State.mixAll_quad (s : State) (xs : List Sample) :
    (s.mixAll xs).quad = s.quad + BitVec.ofNat 2 xs.length := by
  induction xs generalizing s with
  | nil => exact (BitVec.add_zero _).symm
  | cons x xs ih =>
    have hlen : BitVec.ofNat 2 (x :: xs).length = BitVec.ofNat 2 xs.length + 1 := BitVec.ofNat_add _ _
    rw [State.mixAll, ih, State.mixStep_quad, hlen, BitVec.add_assoc, BitVec.add_comm 1]

/-- Settles O23: the quadrant counts the samples modulo 4, from 0. -/
theorem quadrantCycle : Obligations.QuadrantCycle := by
  intro c xs
  have hzero : (State.construct c).quad = 0#2 := rfl
  rw [State.mixAll_quad, hzero, BitVec.zero_add, BitVec.toNat_ofNat]

/-- An admitted `DDC.MIX` and an admitted `LOOP.COMPUTE` each consume one sample. -/
theorem quad_of_effect_sample {i : Instr} {s t : State} (hi : (∃ x, i = .ddcMix x) ∨ i = .loopCompute)
    (h : Effect i s t) : t.quad = s.quad + 1 := by
  obtain ⟨x, rfl⟩ | rfl := hi <;> cases h <;> rfl

/-- What an operation does that changes the quadrant. -/
theorem sample_or_reset_of_quad_ne {i : Instr} {s t : State} (h : exec i s = .next t) (hne : t.quad ≠ s.quad) :
    (∃ x, i = .ddcMix x) ∨ i = .loopCompute ∨ (i = .sysReset ∧ t.quad = 0) := by
  rcases exec_next.mp h with ⟨_, rfl⟩ | ⟨_, he⟩
  · exact absurd rfl hne
  cases i with
  | ddcMix x => exact .inl ⟨x, rfl⟩
  | loopCompute => exact .inr (.inl rfl)
  | sysReset =>
    obtain rfl | rfl := sysReset_cases he
    · exact .inr (.inr ⟨rfl, rfl⟩)
    · exact absurd rfl hne
  | sysStart => obtain ⟨_, rfl⟩ | ⟨_, rfl⟩ := sysStart_cases he <;> exact absurd rfl hne
  | rbPopIn | rbPopOut => obtain ⟨r, a, rfl⟩ := State.popAnswered_frame he; simp at hne
  | loopFetch => obtain ⟨_, rfl⟩ | ⟨_, _, rfl⟩ | ⟨_, _, v, _, rfl⟩ := he <;> exact absurd rfl hne
  | _ => cases he; exact absurd rfl hne

/-- Settles O24: the two operations that consume a sample advance the quadrant; of the others only reset writes it. -/
theorem quadrantAdvancesOnlyOnSamples : Obligations.QuadrantAdvancesOnlyOnSamples := by
  refine fun i s t h => ⟨fun hi hmem => ?_, sample_or_reset_of_quad_ne h⟩
  have hadm : admits s.issuer s.seq i = true := (cmdByte_mem_admittedBytes _ _ _).mp hmem
  rcases exec_next.mp h with ⟨hno, _⟩ | ⟨_, he⟩
  · rw [hadm] at hno; cases hno
  · rw [quad_of_effect_sample hi he, BitVec.toNat_add]; rfl

/-! The mixer as a rotation (R134) -/

/-- One quadrant further the output is turned by `-j`: the old `Q` is the new `I`, the old `I` negated the new `Q`. -/
theorem value_mix_add_one (q : BitVec 2) (x : Sample) :
    Fp.value (mix (q + 1) x).1 = Fp.value (mix q x).2 ∧ Fp.value (mix (q + 1) x).2 = -Fp.value (mix q x).1 := by
  obtain rfl | rfl | rfl | rfl : q = 0 ∨ q = 1 ∨ q = 2 ∨ q = 3 := by revert q; decide
  all_goals simp [mix, Fp.value_fneg, Fp.value_posZero]

/-- The two real products of R134, by induction on the samples consumed. -/
theorem value_mix_ofNat (n : ℕ) (x : Sample) :
    (Fp.value (mix (BitVec.ofNat 2 n) x).1 : ℝ) = Fp.value x * Real.cos (Real.pi * n / 2) ∧
      (Fp.value (mix (BitVec.ofNat 2 n) x).2 : ℝ) = -Fp.value x * Real.sin (Real.pi * n / 2) := by
  induction n with
  | zero => simp [mix, Fp.value_posZero]
  | succ n ih =>
    obtain ⟨hI, hQ⟩ := ih
    obtain ⟨hI', hQ'⟩ := value_mix_add_one (BitVec.ofNat 2 n) x
    have hangle : Real.pi * (n + 1 : ℕ) / 2 = Real.pi * n / 2 + Real.pi / 2 := by push_cast; ring
    have hquad : BitVec.ofNat 2 (n + 1) = BitVec.ofNat 2 n + 1 := BitVec.ofNat_add _ _
    rw [hangle, Real.cos_add_pi_div_two, Real.sin_add_pi_div_two, hquad, hI', hQ', hQ, Rat.cast_neg, hI]
    constructor <;> ring

/-- Euler's formula for the mixer's angle. -/
theorem exp_neg_I_mul_quarter_turns (n : ℕ) : Complex.exp (-Complex.I * Real.pi * n / 2) =
    Real.cos (Real.pi * n / 2) - Real.sin (Real.pi * n / 2) * Complex.I := by
  have hangle : -Complex.I * Real.pi * n / 2 = -((Real.pi * n / 2 : ℝ) : ℂ) * Complex.I := by push_cast; ring
  rw [hangle, Complex.exp_mul_I, Complex.cos_neg, Complex.sin_neg, Complex.ofReal_cos, Complex.ofReal_sin]
  ring

/-- Settles O57: the two real products, put together by Euler's formula. -/
theorem mixIsRotation : Obligations.MixIsRotation := by
  intro n x _
  obtain ⟨hI, hQ⟩ := value_mix_ofNat n x
  refine ⟨hI, hQ, ?_⟩
  rw [exp_neg_I_mul_quarter_turns, ← Complex.ofReal_ratCast, ← Complex.ofReal_ratCast, ← Complex.ofReal_ratCast, hI, hQ]
  push_cast
  ring

end Sys2Proof.Machine
end

section
/-! PROOFS. The rules of 42_fir_filter.md: one step of a filter in the words of R140, one call and two calls on a stream,
and the unit impulse. For the impulse every product but one is a zero: a product with one and a sum with a zero are exact,
so the one coefficient comes through with every bit, and a sum that starts from `+0` loses the sign of a zero. -/

namespace Sys2Proof.Fp

/-! Products and sums that are exact (00_scope.md R13) -/

theorem ofSignMag_signBit_magBits (x : Sample) : ofSignMag (signBit x) (magBits x) = x := by
  apply BitVec.eq_of_toNat_eq
  have hlt := x.isLt
  rw [ofSignMag, signBit, magBits, BitVec.msb_eq_decide, BitVec.toNat_ofNat]
  simp only [decide_eq_true_eq]
  split_ifs <;> omega

/-- The nearest magnitude to a magnitude is itself. -/
theorem roundMag_units_mul {m q : ℕ} (hm : m ≤ infMag) (hq : 0 < q) : roundMag (units m * q) q = m := by
  have hx : ((units m * q : ℕ) : ℚ) / q = units m := by
    rw [Nat.cast_mul, mul_div_cancel_right₀ _ (by exact_mod_cast hq.ne')]
  have hnear := (roundMagWide_nearest (units m * q) hq).nearest m
  rw [hx, sub_self, abs_zero, abs_nonpos_iff, sub_eq_zero] at hnear
  have hwide : roundMagWide (units m * q) q = m := strictMono_units.injective (by exact_mod_cast hnear)
  rw [roundMag_eq_min, hwide, min_eq_left hm]

theorem isZero_iff (x : Sample) : isZero x = true ↔ magBits x = 0 := decide_eq_true_iff

theorem magBits_lt_of_isFinite {x : Sample} (h : isFinite x = true) : magBits x < infMag := of_decide_eq_true h

theorem isFinite_of_isZero {x : Sample} (h : isZero x = true) : isFinite x = true := by
  rw [isFinite, (isZero_iff x).mp h]; rfl

theorem natAbs_intUnits (x : Sample) : (intUnits x).natAbs = units (magBits x) := by
  unfold intUnits
  split_ifs <;> simp

theorem intUnits_eq_zero_of_isZero {x : Sample} (h : isZero x = true) : intUnits x = 0 := by
  rw [← Int.natAbs_eq_zero, natAbs_intUnits, (isZero_iff x).mp h, units_zero]

/-- The units of a Sample that is not a zero round to that Sample. -/
theorem roundSum_intUnits {x : Sample} (hx : isFinite x = true) (h0 : isZero x = false) (z : Bool) :
    roundSum z (intUnits x) = x := by
  have hpos := units_pos_of_not_isZero h0
  have hne : intUnits x ≠ 0 := by rw [← Int.natAbs_ne_zero, natAbs_intUnits]; exact hpos.ne'
  have hsign : decide (intUnits x < 0) = signBit x := by
    cases h : signBit x <;> simp [intUnits, h, hpos]
  have hmag : roundMag (units (magBits x)) 1 = magBits x := by
    simpa using roundMag_units_mul (magBits_lt_of_isFinite hx).le one_pos
  rw [roundSum, if_neg hne, hsign, natAbs_intUnits, hmag, ofSignMag_signBit_magBits]

theorem fmul_one {c : Sample} (hc : isFinite c = true) : fmul c 0x3F800000#32 = c := by
  have hone : units (magBits 0x3F800000#32) = 2 ^ 149 := by decide
  have hsign : signBit 0x3F800000#32 = false := by decide
  rw [fmul_of_finite hc (by decide), hone, hsign, roundMag_units_mul (magBits_lt_of_isFinite hc).le (Nat.two_pow_pos _),
    Bool.bne_false, ofSignMag_signBit_magBits]

theorem isZero_fmul_posZero {c : Sample} (hc : isFinite c = true) : isZero (fmul c posZero) = true := by
  have hround : roundMag (units (magBits c) * units (magBits posZero)) (2 ^ 149) = 0 := by
    simpa [show magBits posZero = 0 by decide] using roundMag_units_mul (Nat.zero_le infMag) (Nat.two_pow_pos 149)
  rw [fmul_of_finite hc (by decide), hround, isZero_iff, magBits_ofSignMag _ (Nat.zero_le _)]

/-- A sum that starts from `+0`: `-0` becomes `+0`, every other value stands. -/
def dropZeroSign (c : Sample) : Sample := if isZero c then posZero else c

theorem posZero_fadd {c : Sample} (hc : isFinite c = true) : fadd posZero c = dropZeroSign c := by
  have hsum : fadd posZero c = roundSum false (intUnits c) := by
    rw [fadd_of_finite (by decide) hc, intUnits_eq_zero_of_isZero (by decide), zero_add]; rfl
  rw [hsum, dropZeroSign]
  split_ifs with h0
  · rw [intUnits_eq_zero_of_isZero h0]; rfl
  · exact roundSum_intUnits hc (Bool.eq_false_of_not_eq_true h0) _

theorem posZero_fadd_of_isZero {z : Sample} (hz : isZero z = true) : fadd posZero z = posZero := by
  rw [posZero_fadd (isFinite_of_isZero hz), dropZeroSign, if_pos hz]

theorem dropZeroSign_fadd_of_isZero {c z : Sample} (hc : isFinite c = true) (hz : isZero z = true) :
    fadd (dropZeroSign c) z = dropZeroSign c := by
  unfold dropZeroSign
  split_ifs with h0
  · exact posZero_fadd_of_isZero hz
  · rw [fadd_of_finite hc (isFinite_of_isZero hz), intUnits_eq_zero_of_isZero hz, add_zero,
      roundSum_intUnits hc (Bool.eq_false_of_not_eq_true h0)]

end Sys2Proof.Fp

namespace Sys2Proof.Machine

/-! One step (R140, R141) -/

theorem firShift_eq_cons_dropLast {n : Nat} {w : List Sample} (hw : w.length = n) (hn : 1 ≤ n) (x : Sample) :
    firShift n w x = x :: w.dropLast := by
  rw [firShift, List.take_cons (by omega), List.dropLast_eq_take, hw]

/-- The fold over the pairs, cut after `n` of them, is the sum by index. -/
theorem foldl_take_zip (coef w : List Sample) {n : Nat} (hc : n ≤ coef.length) (hw : n ≤ w.length) :
    ((coef.zip w).take n).foldl (fun acc p => Fp.fadd acc (Fp.fmul p.1 p.2)) posZero = firSumByIndex coef w n := by
  induction n with
  | zero => rfl
  | succ n ih =>
    have hlt : n < (coef.zip w).length := by rw [List.length_zip]; omega
    rw [List.take_add_one, List.foldl_append, ih (by omega) (by omega), List.getElem?_eq_getElem hlt, List.getElem_zip,
      firSumByIndex, List.getD_eq_getElem _ _ (by omega), List.getD_eq_getElem _ _ (by omega)]
    rfl

theorem firSum_eq_firSumByIndex {coef w : List Sample} {n : Nat} (hc : coef.length = n) (hw : w.length = n) :
    firSum coef w = firSumByIndex coef w n := by
  rw [firSum, ← foldl_take_zip coef w hc.ge hw.ge, List.take_of_length_le (by simp [hc, hw])]

/-- A step whose history and coefficients have the tap count's length, in the words of R140. -/
theorem State.firStep_eq {s : State} {f : FirId} (hc : (s.cfg.fir f).coef.length = (s.cfg.fir f).taps)
    (hw : (s.hist f).length = (s.cfg.fir f).taps) (hn : 1 ≤ (s.cfg.fir f).taps) (x : Sample) :
    s.firStep f x = (s.setHist f (x :: (s.hist f).dropLast),
      firSumByIndex (s.cfg.fir f).coef (x :: (s.hist f).dropLast) (s.cfg.fir f).taps) := by
  have hlen : (x :: (s.hist f).dropLast).length = (s.cfg.fir f).taps := by
    rw [← firShift_eq_cons_dropLast hw hn, length_firShift hw]
  rw [State.firStep, firShift_eq_cons_dropLast hw hn, firSum_eq_firSumByIndex hc hlen]

theorem exec_firOn {s : State} (ha : s.issuer = .host) (hs : s.seq = .ready) (f : FirId) (x : Sample) :
    exec (firOn f x) s = .next (s.firAnswered f x) := by
  cases f <;> exact exec_of_admits_host_ready ha hs rfl rfl

theorem exec_firOn_eq {s : State} (ha : s.issuer = .host) (hs : s.seq = .ready) (f : FirId) (x : Sample)
    (hc : (s.cfg.fir f).coef.length = (s.cfg.fir f).taps) (hw : (s.hist f).length = (s.cfg.fir f).taps)
    (hn : 1 ≤ (s.cfg.fir f).taps) :
    exec (firOn f x) s = .next ((s.setHist f (x :: (s.hist f).dropLast)).answer
      (.ok [firSumByIndex (s.cfg.fir f).coef (x :: (s.hist f).dropLast) (s.cfg.fir f).taps])) := by
  rw [exec_firOn ha hs, State.firAnswered, State.firStep_eq hc hw hn]

/-- Settles O25: the three instances of one step in the words of R140. -/
theorem firStepResult : Obligations.FirStepResult := fun x _ ha hs =>
  ⟨exec_firOn_eq ha hs .i x, exec_firOn_eq ha hs .q x, exec_firOn_eq ha hs .o x⟩

/-! A stream of inputs (R142, R143) -/

/-- Settles O27, by induction on the first part: the second call starts from the state the first one leaves. -/
theorem firContinuity : Obligations.FirContinuity := by
  intro s f xs ys
  induction xs generalizing s with
  | nil => rfl
  | cons x xs ih => simp only [List.cons_append, State.firProcess, ih]

/-- Each output is the sum over the history that the inputs up to it leave. -/
theorem State.firProcess_output (s : State) (f : FirId) (xs : List Sample) {k : Nat} (hk : k < xs.length) :
    (s.firProcess f xs).2[k]? =
      some (firSum (s.cfg.fir f).coef ((s.firProcess f (xs.take (k + 1))).1.hist f)) := by
  induction xs generalizing s k with
  | nil => cases hk
  | cons x xs ih =>
    cases k with
    | zero =>
      have hhist : (s.firStep f x).1.hist f = firShift (s.cfg.fir f).taps (s.hist f) x := s.setHist_hist f _
      simp only [List.take_succ_cons, List.take_zero, State.firProcess, hhist]
      rfl
    | succ k =>
      have htail := ih (s.firStep f x).1 (Nat.lt_of_succ_lt_succ hk)
      rw [State.firStep_cfg] at htail
      exact htail

/-! The unit impulse (R144) -/

theorem firCfg_ok {f : FirCfg} :
    f.ok = true ↔ (f.taps % 2 = 1 ∧ 1 ≤ f.taps) ∧ f.coef.length = f.taps ∧ ∀ c ∈ f.coef, Fp.isFinite c = true := by
  simp [FirCfg.ok, FirCfg.tapsOk, FirCfg.lengthOk, FirCfg.finiteOk, and_assoc]

theorem Cfg_fir_ok {c : Cfg} (h : c.ok = true) (f : FirId) : (c.fir f).ok = true := by
  simp only [Cfg.ok, Bool.and_eq_true, and_assoc] at h
  obtain ⟨hI, hQ, hO, _⟩ := h
  cases f
  · exact hI
  · exact hQ
  · exact hO

/-- The history `k` inputs after a unit impulse, which it holds at index `k` as long as it holds it. -/
theorem hist_after_impulse (c : Cfg) (f : FirId) (k : Nat) {i : Nat} (hi : i < (c.fir f).taps) :
    (((State.construct c).firProcess f (0x3F800000#32 :: List.replicate k posZero)).1.hist f).getD i posZero =
      if i = k then 0x3F800000#32 else posZero := by
  obtain ⟨_, hget⟩ := firHistoryIsLastInputs c f (0x3F800000#32 :: List.replicate k posZero) i hi
  rw [List.getD_eq_getElem?_getD, hget, Option.getD_some, List.length_cons, List.length_replicate, Nat.add_sub_cancel]
  rcases lt_trichotomy i k with hlt | rfl | hgt
  · obtain ⟨j, hj⟩ : ∃ j, k - i = j + 1 := ⟨k - i - 1, by omega⟩
    rw [if_pos (by omega), if_neg hlt.ne, hj, List.getD_cons_succ, List.getD_replicate]
    omega
  · rw [if_pos (Nat.lt_succ_self i), if_pos rfl, Nat.sub_self, List.getD_cons_zero]
  · rw [if_neg (by omega), if_neg hgt.ne']

/-- The sum over a history that is `+0` but for a one at index `k`: the products before it leave `+0`, those after it the
coefficient. -/
theorem firSumByIndex_impulse {coef w : List Sample} {k n : Nat} (hcoef : ∀ c ∈ coef, Fp.isFinite c = true)
    (hw : ∀ i < n, w.getD i posZero = if i = k then 0x3F800000#32 else posZero) :
    firSumByIndex coef w n = if k < n then Fp.dropZeroSign (coef.getD k posZero) else posZero := by
  have hfin (i : Nat) : Fp.isFinite (coef.getD i posZero) = true := by
    rcases Nat.lt_or_ge i coef.length with h | h
    · rw [List.getD_eq_getElem _ _ h]; exact hcoef _ (List.getElem_mem h)
    · rw [List.getD_eq_default _ _ h]; decide
  induction n with
  | zero => rfl
  | succ n ih =>
    rw [firSumByIndex, ih fun i hi => hw i (Nat.lt_succ_of_lt hi), hw n (Nat.lt_succ_self n)]
    rcases lt_trichotomy k n with hlt | rfl | hgt
    · rw [if_pos hlt, if_neg hlt.ne', if_pos (by omega),
        Fp.dropZeroSign_fadd_of_isZero (hfin k) (Fp.isZero_fmul_posZero (hfin n))]
    · rw [if_neg (lt_irrefl k), if_pos rfl, if_pos (by omega), Fp.fmul_one (hfin k), Fp.posZero_fadd (hfin k)]
    · rw [if_neg hgt.not_gt, if_neg hgt.ne, if_neg (by omega),
        Fp.posZero_fadd_of_isZero (Fp.isZero_fmul_posZero (hfin n))]

/-- Every output for a unit impulse from reset: the coefficients, then `+0`. -/
theorem firProcess_impulse {c : Cfg} (hok : c.ok = true) (f : FirId) {m k : Nat} (hk : k ≤ m) :
    ((State.construct c).firProcess f (0x3F800000#32 :: List.replicate m posZero)).2[k]? =
      some (if k < (c.fir f).taps then Fp.dropZeroSign ((c.fir f).coef.getD k posZero) else posZero) := by
  obtain ⟨⟨_, htaps⟩, hcoef, hfin⟩ := firCfg_ok.mp (Cfg_fir_ok hok f)
  have htake : (0x3F800000#32 :: List.replicate m posZero).take (k + 1) = 0x3F800000#32 :: List.replicate k posZero := by
    rw [List.take_succ_cons, List.take_replicate, min_eq_left hk]
  obtain ⟨hlen, _⟩ := firHistoryIsLastInputs c f (0x3F800000#32 :: List.replicate k posZero) 0 htaps
  rw [State.firProcess_output _ _ _ (by simpa using Nat.lt_succ_of_le hk), htake]
  exact congrArg some ((firSum_eq_firSumByIndex hcoef hlen).trans
    (firSumByIndex_impulse hfin fun _ => hist_after_impulse c f k))

/-- Settles O28: the two cases of an output's place in the stream. -/
theorem firImpulseResponse : Obligations.FirImpulseResponse := by
  intro c f m k hok hk
  obtain ⟨_, hcoef, _⟩ := firCfg_ok.mp (Cfg_fir_ok hok f)
  have hout := firProcess_impulse hok f hk
  refine ⟨fun h => ?_, fun h => ?_⟩
  · rw [if_pos (hcoef ▸ h), List.getD_eq_getElem _ _ h] at hout
    exact hout
  · rw [if_neg h.not_gt] at hout
    exact hout

end Sys2Proof.Machine
end

section
/-! PROOFS. The rules of 43_discriminator.md and the non-finite cases of 00_scope.md R13. The discriminator's operation is
its primitives one after the other. A magnitude nearest to a real number is told by the middles to its two neighbours; for
`GAIN` no middle lies between the quotient with `pi` and that with twenty decimals of it. -/

namespace Sys2Proof.Fp

/-! NaNs (R166) -/

theorem le_magBits_or (x y : Sample) : magBits y ≤ magBits (x ||| y) := by
  rw [magBits, magBits, BitVec.toNat_or, Nat.or_mod_two_pow]
  exact Nat.right_le_or

@[simp] theorem isNaN_nanOf (b : BitVec 32) : isNaN (nanOf b) = true := by
  unfold nanOf
  dsimp only
  split_ifs with h
  · exact h
  · rw [BitVec.or_assoc]
    exact decide_eq_true (lt_of_lt_of_le (by decide) (le_magBits_or b _))

@[simp] theorem isNaN_nanResult (op : FloatOp) (a b : Sample) : isNaN (nanResult op a b) = true := isNaN_nanOf _

theorem isZero_of_isNaN {x : Sample} (h : isNaN x = true) : isZero x = false := by
  simp only [isNaN, isZero, decide_eq_true_eq, decide_eq_false_iff_not] at *
  omega

theorem isNaN_fatan {x : Sample} (h : isNaN x = true) : isNaN (fatan x) = true := by simp [fatan, h]

section NaNOperand
variable {a b : Sample} (h : isNaN a = true ∨ isNaN b = true)
include h

theorem isNaN_fadd : isNaN (fadd a b) = true := by simp [fadd, h]

theorem isNaN_fsub : isNaN (fsub a b) = true := by simp [fsub, h]

theorem isNaN_fmul : isNaN (fmul a b) = true := by simp [fmul, h]

theorem isNaN_fdiv : isNaN (fdiv a b) = true := by simp [fdiv, h]

end NaNOperand

/-! Infinities and zeros (R13) -/

theorem isNaN_of_isInf {x : Sample} (h : isInf x = true) : isNaN x = false := by
  simp only [isInf, isNaN, decide_eq_true_eq, decide_eq_false_iff_not] at *
  omega

theorem isZero_of_isInf {x : Sample} (h : isInf x = true) : isZero x = false := by
  rw [isInf, decide_eq_true_eq] at h
  rw [isZero, h]; rfl

theorem isFinite_of_isInf {x : Sample} (h : isInf x = true) : isFinite x = false := by
  rw [isInf, decide_eq_true_eq] at h
  rw [isFinite, h]; rfl

@[simp] theorem isInf_fneg (x : Sample) : isInf (fneg x) = isInf x := by simp [isInf]

@[simp] theorem isInf_ofSignMag_infMag (s : Bool) : isInf (ofSignMag s infMag) = true := by
  rw [isInf, magBits_ofSignMag s le_rfl]; rfl

@[simp] theorem isZero_ofSignMag_zero (s : Bool) : isZero (ofSignMag s 0) = true := by
  rw [isZero, magBits_ofSignMag s (Nat.zero_le _)]; rfl

section Infinite
variable {a b : Sample} (ha : isInf a = true)
include ha

/-- Two infinities are added where their signs agree. -/
theorem fadd_of_isInf_isInf (hb : isInf b = true) :
    fadd a b = if signBit a = signBit b then a else nanResult .add a b := by
  cases h : signBit a <;> cases h' : signBit b <;> simp [fadd, addCore, isNaN_of_isInf, ha, hb, h, h']

/-- Two infinities are subtracted where their signs differ. -/
theorem fsub_of_isInf_isInf (hb : isInf b = true) :
    fsub a b = if signBit a = signBit b then nanResult .sub a b else a := by
  cases h : signBit a <;> cases h' : signBit b <;> simp [fsub, addCore, isNaN_of_isInf, ha, hb, h, h']

theorem fdiv_of_isInf_isInf (hb : isInf b = true) : fdiv a b = nanResult .div a b := by
  simp [fdiv, isNaN_of_isInf, ha, hb]

theorem fmul_of_isInf_isZero (hb : isZero b = true) :
    fmul a b = nanResult .mul a b ∧ fmul b a = nanResult .mul b a := by
  simp [fmul, isNaN_of_isInf, isNaN_of_isFinite (isFinite_of_isZero hb), ha, hb]

theorem fmul_of_isInf (hb : isNaN b = false) (h0 : isZero b = false) :
    fmul a b = ofSignMag (signBit a != signBit b) infMag ∧ fmul b a = ofSignMag (signBit b != signBit a) infMag := by
  simp [fmul, isNaN_of_isInf, isZero_of_isInf, ha, hb, h0]

theorem fadd_of_isInf_isFinite (hb : isFinite b = true) : fadd a b = a ∧ fadd b a = a := by
  simp [fadd, addCore, isNaN_of_isInf, isNaN_of_isFinite, isInf_of_isFinite, ha, hb]

theorem fsub_of_isInf_isFinite (hb : isFinite b = true) : fsub a b = a ∧ fsub b a = fneg a := by
  simp [fsub, addCore, isNaN_of_isInf, isNaN_of_isFinite, isInf_of_isFinite, ha, hb]

theorem fdiv_of_isInf_isFinite (hb : isFinite b = true) :
    fdiv a b = ofSignMag (signBit a != signBit b) infMag ∧ fdiv b a = ofSignMag (signBit b != signBit a) 0 := by
  simp [fdiv, isNaN_of_isInf, isNaN_of_isFinite, isInf_of_isFinite, ha, hb]

end Infinite

/-- A divisor that is a zero: invalid for a zero, else an infinity. -/
theorem fdiv_of_isZero {a b : Sample} (ha : isFinite a = true) (hb : isZero b = true) :
    fdiv a b = if isZero a then nanResult .div a b else ofSignMag (signBit a != signBit b) infMag := by
  have hfin := isFinite_of_isZero hb
  simp [fdiv, isNaN_of_isFinite, isInf_of_isFinite, ha, hb, hfin]

/-- Settles O37: each clause is the result of the operations for one kind of operands. -/
theorem nonFiniteArithmetic : Obligations.NonFiniteArithmetic := by
  intro a b
  have hsign (s : Bool) : signBit (ofSignMag s infMag) = s := signBit_ofSignMag s le_rfl
  refine ⟨fun h => ⟨isNaN_fadd h, isNaN_fsub h, isNaN_fmul h, isNaN_fdiv h⟩, fun ha hb => ?_, fun ha hb => ?_,
    fun ha hb => ?_, fun ha hb => ?_, fun ha hb h0 => ?_, fun ha h0 hb => ?_⟩
  · rw [fadd_of_isInf_isInf ha hb, fsub_of_isInf_isInf ha hb, fdiv_of_isInf_isInf ha hb]
    split_ifs <;> simp
  · obtain ⟨hab, hba⟩ := fmul_of_isInf_isZero ha hb
    simp [hab, hba]
  · simp [fdiv_of_isZero (isFinite_of_isZero ha) hb, ha]
  · obtain ⟨hdiv, hdiv'⟩ := fdiv_of_isInf_isFinite ha hb
    obtain ⟨hadd, hadd'⟩ := fadd_of_isInf_isFinite ha hb
    obtain ⟨hsub, hsub'⟩ := fsub_of_isInf_isFinite ha hb
    simp [hdiv, hdiv', hadd, hadd', hsub, hsub', hsign]
  · obtain ⟨hab, hba⟩ := fmul_of_isInf ha hb h0
    simp [hab, hba, hsign]
  · simp [fdiv_of_isZero ha hb, h0, hsign]

/-! Zeros among finite operands -/

theorem roundMag_zero {q : ℕ} (hq : 0 < q) : roundMag 0 q = 0 := by
  simpa using roundMag_units_mul (Nat.zero_le infMag) hq

theorem isZero_fmul {a b : Sample} (ha : isFinite a = true) (hb : isFinite b = true)
    (h : isZero a = true ∨ isZero b = true) : isZero (fmul a b) = true := by
  have hprod : units (magBits a) * units (magBits b) = 0 := by
    rcases h with h | h <;> simp [(isZero_iff _).mp h]
  rw [fmul_of_finite ha hb, hprod, roundMag_zero (Nat.two_pow_pos _), isZero_ofSignMag_zero]

section Zeros
variable {a b : Sample} (ha : isZero a = true) (hb : isZero b = true)
include ha hb

theorem isZero_fadd : isZero (fadd a b) = true := by
  rw [fadd_of_finite (isFinite_of_isZero ha) (isFinite_of_isZero hb), intUnits_eq_zero_of_isZero ha,
    intUnits_eq_zero_of_isZero hb]
  exact isZero_ofSignMag_zero _

theorem isZero_fsub : isZero (fsub a b) = true := by
  rw [fsub_of_finite (isFinite_of_isZero ha) (isFinite_of_isZero hb), intUnits_eq_zero_of_isZero ha,
    intUnits_eq_zero_of_isZero hb]
  exact isZero_ofSignMag_zero _

end Zeros

/-- The two zeros by their patterns (00_scope.md R13). -/
theorem isZero_iff_eq (x : Sample) : isZero x = true ↔ x = 0x00000000#32 ∨ x = 0x80000000#32 := by
  constructor
  · intro h
    rw [isZero_iff] at h
    rw [← ofSignMag_signBit_magBits x, h]
    cases signBit x
    · exact .inl rfl
    · exact .inr rfl
  · rintro (rfl | rfl) <;> rfl

theorem fatan_of_isZero {x : Sample} (h : isZero x = true) : fatan x = x := by
  simp [fatan, isNaN_of_isFinite (isFinite_of_isZero h), h]

/-! `Atan` (R165) -/

theorem isNaN_eq_false_iff (x : Sample) : isNaN x = false ↔ magBits x ≤ infMag := by simp [isNaN]

@[simp] theorem isNaN_fneg (x : Sample) : isNaN (fneg x) = isNaN x := by simp [isNaN]

theorem eq_of_signBit_of_magBits {x y : Sample} (hs : signBit x = signBit y) (hm : magBits x = magBits y) : x = y := by
  rw [← ofSignMag_signBit_magBits x, hs, hm, ofSignMag_signBit_magBits]

/-- What `Atan` does to the magnitude bits; the sign it keeps (`fatan_eq`). -/
def atanMag (m : ℕ) : ℕ := if m = 0 then 0 else if m = infMag then Config.halfPiMag else Config.atan.mag m

theorem fatan_eq {x : Sample} (h : isNaN x = false) : fatan x = ofSignMag (signBit x) (atanMag (magBits x)) := by
  by_cases h0 : magBits x = 0
  · rw [fatan_of_isZero ((isZero_iff x).mpr h0), atanMag, if_pos h0, ← h0, ofSignMag_signBit_magBits]
  · by_cases hinf : magBits x = infMag
    · simp [fatan, atanMag, h, isZero, isInf, hinf, infMag]
    · simp [fatan, atanMag, h, isZero, isInf, h0, hinf]

theorem atanMag_of_finite {m : ℕ} (h0 : m ≠ 0) (h : m < infMag) : atanMag m = Config.atan.mag m := by
  rw [atanMag, if_neg h0, if_neg h.ne]

theorem atanMag_le (m : ℕ) : atanMag m ≤ Config.halfPiMag := by
  unfold atanMag
  split_ifs
  exacts [Nat.zero_le _, le_rfl, Config.atan.monotone.2 m]

theorem atanMag_mono {m n : ℕ} (h : m ≤ n) (hn : n ≤ infMag) : atanMag m ≤ atanMag n := by
  rcases eq_or_ne m 0 with rfl | hm
  · exact Nat.zero_le _
  rcases hn.lt_or_eq with hlt | rfl
  · rw [atanMag_of_finite hm (h.trans_lt hlt), atanMag_of_finite (by omega) hlt]
    exact Config.atan.monotone.1 m n h hlt
  · exact atanMag_le m

theorem atanMag_accurate {m : ℕ} (h : m < infMag) :
    |((magValue (atanMag m) : ℚ) : ℝ) - Real.arctan ((magValue m : ℚ) : ℝ)| ≤ (ulpUnits (atanMag m) : ℝ) / 2 ^ 149 := by
  rcases eq_or_ne m 0 with rfl | h0
  · have hzero : magValue 0 = 0 := by simp [magValue]
    rw [atanMag, if_pos rfl, hzero, Rat.cast_zero, Real.arctan_zero, sub_zero, abs_zero]
    positivity
  · rw [atanMag_of_finite h0 h]
    exact Config.atan.accurate m h

section NotNaN
variable {x : Sample} (h : isNaN x = false)
include h

@[simp] theorem magBits_fatan : magBits (fatan x) = atanMag (magBits x) := by
  rw [fatan_eq h, magBits_ofSignMag _ ((atanMag_le _).trans (by decide))]

@[simp] theorem signBit_fatan : signBit (fatan x) = signBit x := by
  rw [fatan_eq h, signBit_ofSignMag _ ((atanMag_le _).trans (by decide))]

theorem fatan_fneg : fatan (fneg x) = fneg (fatan x) := by
  apply eq_of_signBit_of_magBits <;> simp [h]

end NotNaN

theorem ord_fatan_mono {x y : Sample} (hx : isNaN x = false) (hy : isNaN y = false) (h : ord x ≤ ord y) :
    ord (fatan x) ≤ ord (fatan y) := by
  have hmx := (isNaN_eq_false_iff x).mp hx
  have hmy := (isNaN_eq_false_iff y).mp hy
  unfold ord at *
  rw [magBits_fatan hx, magBits_fatan hy, signBit_fatan hx, signBit_fatan hy]
  cases hsx : signBit x <;> cases hsy : signBit y <;>
    simp only [hsx, hsy, if_true, Bool.false_eq_true, if_false] at h ⊢
  · have := atanMag_mono (m := magBits x) (by omega) hmy
    omega
  · obtain ⟨h0, h0'⟩ : magBits x = 0 ∧ magBits y = 0 := by omega
    simp [h0, h0', atanMag]
  · omega
  · have := atanMag_mono (m := magBits y) (by omega) hmx
    omega

theorem abs_value_fatan_sub_arctan_le {x : Sample} (h : isFinite x = true) :
    |((value (fatan x) : ℚ) : ℝ) - Real.arctan ((value x : ℚ) : ℝ)| ≤ (ulpUnits (magBits (fatan x)) : ℝ) / 2 ^ 149 := by
  have hacc := atanMag_accurate (magBits_lt_of_isFinite h)
  have hnan := isNaN_of_isFinite h
  rw [value, value, signBit_fatan hnan, magBits_fatan hnan]
  split_ifs
  · rwa [Rat.cast_neg, Rat.cast_neg, Real.arctan_neg, neg_sub_neg, abs_sub_comm]
  · exact hacc

/-! Nearest to a real number -/

theorem cast_value_nonneg {x : Sample} (h : signBit x = false) : (0 : ℝ) ≤ (value x : ℚ) := by
  rw [value, h, if_neg Bool.false_ne_true]
  exact_mod_cast Config.magValue_nonneg _

/-- No magnitude is nearer to the real number of `x` units than the magnitude bits `m`. -/
def NearestMagReal (x : ℝ) (m : ℕ) : Prop := ∀ c : ℕ, |(units m : ℝ) - x| ≤ |(units c : ℝ) - x|

/-- Nearest is what lies between the middles to its two neighbours. -/
theorem nearestMagReal_iff {x : ℝ} {m : ℕ} : NearestMagReal x m ↔
    (∀ b, b + 1 = m → (units b : ℝ) + units m ≤ 2 * x) ∧ 2 * x ≤ (units m : ℝ) + units (m + 1) := by
  have hmono {c d : ℕ} (h : c ≤ d) : (units c : ℝ) ≤ units d := by exact_mod_cast strictMono_units.monotone h
  have hstrict (c : ℕ) : (units c : ℝ) < units (c + 1) := by exact_mod_cast strictMono_units (Nat.lt_succ_self c)
  constructor
  · intro h
    refine ⟨?_, ?_⟩
    · rintro b rfl
      have := (le_abs_self _).trans (h b)
      have := hstrict b
      rcases abs_cases ((units b : ℝ) - x) with hc | hc <;> linarith
    · have := (neg_le_abs _).trans (h (m + 1))
      have := hstrict m
      rcases abs_cases ((units (m + 1) : ℝ) - x) with hc | hc <;> linarith
  · rintro ⟨hlo, hhi⟩ c
    rcases lt_trichotomy c m with hlt | rfl | hgt
    · obtain ⟨b, rfl⟩ := Nat.exists_eq_add_of_lt hlt
      have hc := hmono (Nat.le_add_right c b)
      have hb := hstrict (c + b)
      have hmid := hlo (c + b) rfl
      have := neg_le_abs ((units c : ℝ) - x)
      exact abs_le.mpr ⟨by linarith, by linarith⟩
    · exact le_rfl
    · have hc := hmono (Nat.succ_le_of_lt hgt)
      have hm := hstrict m
      have := le_abs_self ((units c : ℝ) - x)
      exact abs_le.mpr ⟨by linarith, by linarith⟩

theorem abs_sub_eq_of_mul_nonneg {a b : ℝ} (h : 0 ≤ a * b) : |a - b| = |(|a| - |b|)| := by
  rw [← sq_eq_sq_iff_abs_eq_abs, sub_sq, sub_sq, sq_abs, sq_abs, mul_assoc, mul_assoc, ← abs_mul, abs_of_nonneg h]

theorem abs_cast_value (x : Sample) : |((value x : ℚ) : ℝ)| = (units (magBits x) : ℝ) / 2 ^ 149 := by
  rw [← Rat.cast_abs, abs_value, magValue]
  push_cast
  rfl

/-- The distance of a Sample's magnitude from that of a real number, counted in units. -/
theorem abs_abs_value_sub_abs (c : Sample) (e : ℝ) :
    |(|((value c : ℚ) : ℝ)| - |e|)| = |(units (magBits c) : ℝ) - |e| * 2 ^ 149| / 2 ^ 149 := by
  have hpow : (0 : ℝ) < 2 ^ 149 := by positivity
  rw [abs_cast_value, div_sub' hpow.ne', abs_div, abs_of_pos hpow, mul_comm (2 ^ 149)]

/-- A Sample with the sign of `e` and the magnitude nearest to that of `e` is the Sample nearest to `e`. -/
theorem NearestMagReal.abs_value_sub_le {e : ℝ} {g : Sample} (h : NearestMagReal (|e| * 2 ^ 149) (magBits g))
    (hsign : 0 ≤ ((value g : ℚ) : ℝ) * e) (c : Sample) :
    |((value g : ℚ) : ℝ) - e| ≤ |((value c : ℚ) : ℝ) - e| := by
  rw [abs_sub_eq_of_mul_nonneg hsign, abs_abs_value_sub_abs]
  refine le_trans ?_ (abs_abs_sub_abs_le _ _)
  rw [abs_abs_value_sub_abs]
  exact div_le_div_of_nonneg_right (h _) (by positivity)

theorem nearestMagReal_halfPi : NearestMagReal (Real.pi / 2 * 2 ^ 149) Config.halfPiMag := by
  have hlt := Real.pi_lt_d20
  have hgt := Real.pi_gt_d20
  refine nearestMagReal_iff.mpr ⟨fun b hb => ?_, ?_⟩
  · obtain rfl : b = Config.halfPiMag - 1 := by omega
    norm_num [units, Config.halfPiMag]
    linarith
  · norm_num [units, Config.halfPiMag]
    linarith

/-- Settles O34: off the NaNs `Atan` is `atanMag` on magnitudes and keeps the sign. -/
theorem atanProperties : Obligations.AtanProperties := by
  refine ⟨rfl, rfl, fun _ => fatan_fneg, fun _ _ => ord_fatan_mono, fun _ => abs_value_fatan_sub_arctan_le, rfl, rfl,
    fun c _ => ?_, fun _ => isNaN_fatan⟩
  have hpi : |Real.pi / 2| = Real.pi / 2 := abs_of_pos Real.pi_div_two_pos
  refine NearestMagReal.abs_value_sub_le ?_ (mul_nonneg (cast_value_nonneg rfl) Real.pi_div_two_pos.le) c
  rw [hpi]
  exact nearestMagReal_halfPi

/-! `GAIN` (R163) -/

/-- The whole part of `2^50 / pi`. -/
def piFloor : ℕ := 358385071201416

/-- The whole numbers' gap that holds `2^50 / pi`, with `pi` itself and with twenty decimals of it. -/
def piGap : Set ℝ := Set.Ioo piFloor (piFloor + 1)

theorem two_pow_div_pi_mem : 2 ^ 50 / Real.pi ∈ piGap := by
  have hgt := Real.pi_gt_d20
  have hlt := Real.pi_lt_d20
  rw [piGap, Set.mem_Ioo, lt_div_iff₀ Real.pi_pos, div_lt_iff₀ Real.pi_pos, piFloor]
  constructor <;> norm_num <;> linarith

theorem two_pow_div_piNum_mem : 2 ^ 50 * (piDen : ℝ) / piNum ∈ piGap := by
  norm_num [piGap, piNum, piDen, piFloor]

/-- A number of at most 49 bits, scaled by a power of two, lies outside the gap above `piFloor`, scaled by `2^248`: it is
too small, or a whole multiple of `2^248`. -/
theorem scaled_outside_gap {n : ℕ} (hn : n ≤ 2 ^ 49) (e : ℕ) :
    n * 2 ^ e ≤ piFloor * 2 ^ 248 ∨ (piFloor + 1) * 2 ^ 248 ≤ n * 2 ^ e := by
  rcases Nat.lt_or_ge e 248 with he | he
  · left
    calc n * 2 ^ e ≤ 2 ^ 49 * 2 ^ 247 := Nat.mul_le_mul hn (Nat.pow_le_pow_right (by norm_num) (Nat.le_of_lt_succ he))
      _ ≤ piFloor * 2 ^ 248 := by norm_num [piFloor]
  · obtain ⟨d, rfl⟩ := Nat.exists_eq_add_of_le' he
    rw [pow_add, ← mul_assoc]
    exact (le_or_gt (n * 2 ^ d) piFloor).imp (Nat.mul_le_mul_right _) (Nat.mul_le_mul_right _)

/-- The units of a magnitude as a significand of at most 24 bits times the spacing there. -/
theorem exists_significand (m : ℕ) : ∃ f t, f < 2 ^ 24 ∧ units m = f * 2 ^ t ∧ ulpUnits m = 2 ^ t := by
  by_cases h : m / 2 ^ 23 = 0
  · exact ⟨m, 0, by omega, (if_pos h).trans (mul_one m).symm, by rw [ulpUnits, h]⟩
  · exact ⟨2 ^ 23 + m % 2 ^ 23, m / 2 ^ 23 - 1, by omega, if_neg h, rfl⟩

/-- `1 / (2 * p * K)` in units, for `z = 2^50 / p` and the magnitude bits `k` of `K`. -/
noncomputable def gainUnits (z : ℝ) (k : ℕ) : ℝ := z * 2 ^ 247 / units k

/-- The magnitude bits of `GAIN` before the range is looked at. -/
def gainMagWide (k : ℕ) : ℕ := roundMagWide (2 ^ 149 * 2 ^ 149 * piDen) (2 * piNum * units k)

theorem magBits_gainOf (k : Sample) : magBits (gainOf k) = min (gainMagWide (magBits k)) infMag :=
  magBits_ofSignMag _ (min_le_right _ _)

section Gain
variable {k : ℕ} (hk : 0 < units k)
include hk

/-- The middle between two adjacent magnitudes lies above all quotients of the gap or below all of them: times `K` it is a
product of significands, of at most 49 bits, and a power of two. -/
theorem middle_outside_gap (b : ℕ) :
    (∀ z ∈ piGap, (units b : ℝ) + units (b + 1) < 2 * gainUnits z k) ∨
      ∀ z ∈ piGap, 2 * gainUnits z k < (units b : ℝ) + units (b + 1) := by
  obtain ⟨f, t, hf, hunits, hulp⟩ := exists_significand b
  obtain ⟨g, v, hg, hunits', _⟩ := exists_significand k
  have hmiddle : (units b + units (b + 1)) * units k = (2 * f + 1) * g * 2 ^ (t + v) := by
    rw [Config.units_succ, hunits, hunits', hulp, pow_add]; ring
  have hbits : (2 * f + 1) * g ≤ 2 ^ 25 * 2 ^ 24 := Nat.mul_le_mul (by omega) hg.le
  have hscale (z : ℝ) : 2 * gainUnits z k = z * 2 ^ 248 / units k := by rw [gainUnits]; ring
  have hk' : (0 : ℝ) < units k := by exact_mod_cast hk
  refine (scaled_outside_gap hbits (t + v)).imp (fun h z hz => ?_) (fun h z hz => ?_)
  · have hle : ((units b : ℝ) + units (b + 1)) * units k ≤ piFloor * 2 ^ 248 := by exact_mod_cast hmiddle.trans_le h
    rw [hscale, lt_div_iff₀ hk']
    exact hle.trans_lt (by gcongr; exact hz.1)
  · have hle : ((piFloor : ℝ) + 1) * 2 ^ 248 ≤ (units b + units (b + 1)) * units k := by
      exact_mod_cast h.trans_eq hmiddle.symm
    rw [hscale, div_lt_iff₀ hk']
    exact hle.trans_lt' (by gcongr; exact hz.2)

/-- The quotient that `gainOf` rounds is that with twenty decimals of `pi`. -/
theorem gain_quotient_eq : (((2 ^ 149 * 2 ^ 149 * piDen : ℕ) / (2 * piNum * units k : ℕ) : ℚ) : ℝ) =
    gainUnits (2 ^ 50 * (piDen : ℝ) / piNum) k := by
  have hk' : (units k : ℝ) ≠ 0 := by exact_mod_cast hk.ne'
  have hnum : (piNum : ℝ) ≠ 0 := by norm_num [piNum]
  have hpow : (2 : ℝ) ^ 149 * 2 ^ 149 = 2 * (2 ^ 50 * 2 ^ 247) := by rw [← pow_add, ← pow_add, ← pow_succ']
  rw [Rat.cast_div, Rat.cast_natCast, Rat.cast_natCast, gainUnits]
  simp only [Nat.cast_mul, Nat.cast_pow, Nat.cast_ofNat, hpow]
  field_simp

theorem gainMagWide_nearest :
    NearestMag ((2 ^ 149 * 2 ^ 149 * piDen : ℕ) / (2 * piNum * units k : ℕ)) (gainMagWide k) :=
  roundMagWide_nearest _ (Nat.mul_pos (by decide) hk)

/-- What is nearest to the quotient with twenty decimals of `pi` is nearest to that with `pi`. -/
theorem nearestMagReal_gainMagWide : NearestMagReal (gainUnits (2 ^ 50 / Real.pi) k) (gainMagWide k) := by
  have happrox : NearestMagReal (gainUnits (2 ^ 50 * (piDen : ℝ) / piNum) k) (gainMagWide k) := by
    intro c
    rw [← gain_quotient_eq hk]
    exact_mod_cast (gainMagWide_nearest hk).nearest c
  rw [nearestMagReal_iff] at happrox ⊢
  obtain ⟨hlo, hhi⟩ := happrox
  refine ⟨?_, ?_⟩
  · intro b hb
    rw [← hb] at hlo ⊢
    rcases middle_outside_gap hk b with h | h
    · exact (h _ two_pow_div_pi_mem).le
    · exact absurd (hlo b rfl) (h _ two_pow_div_piNum_mem).not_ge
  · rcases middle_outside_gap hk (gainMagWide k) with h | h
    · exact absurd hhi (h _ two_pow_div_piNum_mem).not_ge
    · exact (h _ two_pow_div_pi_mem).le

/-- The overflow bound is the middle below the magnitude of infinity, so that it too lies outside the gap. -/
theorem infMag_le_gainMagWide_iff :
    infMag ≤ gainMagWide k ↔ ((overflowBound : ℚ) : ℝ) * 2 ^ 149 ≤ gainUnits (2 ^ 50 / Real.pi) k := by
  have hmiddle : (units (infMag - 1) : ℝ) + units (infMag - 1 + 1) = 2 * (((overflowBound : ℚ) : ℝ) * 2 ^ 149) := by
    rw [show infMag - 1 + 1 = infMag from rfl, units_maxFinite, units_infMag]
    norm_num [overflowBound]
  have hiff : infMag ≤ gainMagWide k ↔
      ((overflowBound : ℚ) : ℝ) * 2 ^ 149 ≤ gainUnits (2 ^ 50 * (piDen : ℝ) / piNum) k := by
    rw [(gainMagWide_nearest hk).infMag_le_iff, ← gain_quotient_eq hk]
    exact_mod_cast Iff.rfl
  rw [hiff]
  rcases middle_outside_gap hk (infMag - 1) with h | h <;> rw [hmiddle] at h
  · exact iff_of_true (by linarith [h _ two_pow_div_piNum_mem]) (by linarith [h _ two_pow_div_pi_mem])
  · exact iff_of_false (by linarith [h _ two_pow_div_piNum_mem]) (by linarith [h _ two_pow_div_pi_mem])

end Gain

/-- The real `1 / (2 * pi * K)`, counted in units. -/
theorem abs_gain_eq {k : Sample} (h0 : isZero k = false) :
    |1 / (2 * Real.pi * ((value k : ℚ) : ℝ))| * 2 ^ 149 = gainUnits (2 ^ 50 / Real.pi) (magBits k) := by
  have hk : (units (magBits k) : ℝ) ≠ 0 := by exact_mod_cast (units_pos_of_not_isZero h0).ne'
  have hpi := Real.pi_pos.ne'
  rw [abs_div, abs_mul, abs_mul, abs_cast_value, abs_one, abs_two, abs_of_pos Real.pi_pos, gainUnits]
  field_simp

theorem signBit_gainOf (k : Sample) : signBit (gainOf k) = signBit k := signBit_ofSignMag_roundMag _ _ _

theorem overflow_le_abs_gain_iff {k : Sample} (h0 : isZero k = false) :
    ((overflowBound : ℚ) : ℝ) ≤ |1 / (2 * Real.pi * ((value k : ℚ) : ℝ))| ↔ infMag ≤ gainMagWide (magBits k) := by
  rw [infMag_le_gainMagWide_iff (units_pos_of_not_isZero h0), ← abs_gain_eq h0]
  exact (mul_le_mul_iff_of_pos_right (by positivity)).symm

/-- Samples of one sign have a product that is not negative. -/
theorem value_mul_value_nonneg {x y : Sample} (h : signBit x = signBit y) : 0 ≤ value x * value y := by
  rw [value_eq_signed, value_eq_signed, signed_mul, h, bne_self_eq_false]
  exact mul_nonneg (Config.magValue_nonneg _) (Config.magValue_nonneg _)

theorem gainFor_gainOf {k : Sample} (h0 : isZero k = false)
    (hr : |1 / (2 * Real.pi * ((value k : ℚ) : ℝ))| < ((overflowBound : ℚ) : ℝ)) :
    GainFor ((value k : ℚ) : ℝ) (gainOf k) := by
  have hlt : gainMagWide (magBits k) < infMag := by
    rw [← not_le, ← overflow_le_abs_gain_iff h0]
    exact hr.not_ge
  have hmag : magBits (gainOf k) = gainMagWide (magBits k) := by rw [magBits_gainOf, min_eq_left hlt.le]
  have hsign : (0 : ℝ) ≤ value (gainOf k) * value k := by
    exact_mod_cast value_mul_value_nonneg (signBit_gainOf k)
  refine ⟨decide_eq_true (hmag.trans_lt hlt), fun c _ => NearestMagReal.abs_value_sub_le ?_ ?_ c⟩
  · rw [abs_gain_eq h0, hmag]
    exact nearestMagReal_gainMagWide (units_pos_of_not_isZero h0)
  · rw [one_div, mul_inv, mul_left_comm]
    have hinv : (0 : ℝ) ≤ value (gainOf k) * (value k : ℝ)⁻¹ := by
      rw [← div_eq_mul_inv]
      exact div_nonneg_iff.mpr (mul_nonneg_iff.mp hsign)
    exact mul_nonneg (by positivity) hinv

theorem Cfg_ok_of_isInf_gain {c : Cfg} (h : isInf c.gain = true) : c.ok = false := by
  simp [Cfg.ok, isFinite_of_isInf h]

/-- Settles O58: `GAIN` has the sign of `K`, and its magnitude before the range is looked at is nearest to the real one and
reaches that of infinity from the overflow bound on. -/
theorem gainIsRoundedForEveryK : Obligations.GainIsRoundedForEveryK := by
  intro c _ h0 _
  refine ⟨gainFor_gainOf h0, fun hr => ?_, signBit_gainOf c.k⟩
  have hinf : isInf c.gain = true := by
    rw [overflow_le_abs_gain_iff h0] at hr
    exact decide_eq_true (by rw [Cfg.gain, magBits_gainOf, min_eq_right hr])
  exact ⟨hinf, Cfg_ok_of_isInf_gain hinf⟩

/-- For 0.1, of which the configuration's `K` is only the nearest Sample, the middles are looked at themselves. -/
theorem gainFor_one_tenth : GainFor (1 / 10) 0x3FCBB7E4#32 := by
  have hgt := Real.pi_gt_d20
  have hlt := Real.pi_lt_d20
  have hpos : (0 : ℝ) < 1 / (2 * Real.pi * (1 / 10)) := by positivity
  refine ⟨rfl, fun c _ => NearestMagReal.abs_value_sub_le ?_ (mul_nonneg (cast_value_nonneg rfl) hpos.le) c⟩
  rw [abs_of_pos hpos, show magBits 0x3FCBB7E4#32 = 0x3FCBB7E4 from rfl]
  have hx : 2 * (1 / (2 * Real.pi * (1 / 10)) * 2 ^ 149) = 10 * 2 ^ 149 / Real.pi := by field_simp
  rw [nearestMagReal_iff, hx]
  refine ⟨fun b hb => ?_, ?_⟩
  · obtain rfl : b = 0x3FCBB7E3 := by omega
    rw [le_div_iff₀ Real.pi_pos]
    norm_num [units]
    linarith
  · rw [div_le_iff₀ Real.pi_pos]
    norm_num [units]
    linarith

/-- Settles O33: by hand for 0.1, and as the rounding of every `K` in range for the `K` that is kept. -/
theorem referenceGainIsRounded : Obligations.ReferenceGainIsRounded := by
  have h0 : isZero Machine.State.reset.cfg.k = false := by decide
  refine ⟨gainFor_one_tenth, gainFor_gainOf h0 ?_, by decide⟩
  rw [← not_le, overflow_le_abs_gain_iff h0]
  decide

end Sys2Proof.Fp

namespace Sys2Proof.Machine

/-! `DISC.STEP` (R160, R161, R166, R167, R169) -/

theorem discOut_of_isZero (gain cross : Sample) {dot : Sample} (h : Fp.isZero dot = true) :
    discOut gain cross dot = Fp.fmul gain (Fp.fatan cross) := if_pos h

theorem discOut_of_not_isZero (gain cross : Sample) {dot : Sample} (h : Fp.isZero dot = false) :
    discOut gain cross dot = Fp.fmul gain (Fp.fatan (Fp.fdiv cross dot)) := if_neg (by simp [h])

/-- A NaN passes from `dot` through the quotient, the arctangent and the product with the gain. -/
theorem isNaN_discOut (gain cross : Sample) {dot : Sample} (h : Fp.isNaN dot = true) :
    Fp.isNaN (discOut gain cross dot) = true := by
  rw [discOut_of_not_isZero _ _ (Fp.isZero_of_isNaN h)]
  exact Fp.isNaN_fmul (.inr (Fp.isNaN_fatan (Fp.isNaN_fdiv (.inr h))))

/-- From the previous sample zero both products of `cross` and of `dot` are zeros. -/
theorem isZero_cross_dot {re1 im1 re0 im0 : Sample} (hre1 : Fp.isZero re1 = true) (him1 : Fp.isZero im1 = true)
    (hre0 : Fp.isFinite re0 = true) (him0 : Fp.isFinite im0 = true) :
    Fp.isZero (discCross re1 im1 re0 im0) = true ∧ Fp.isZero (discDot re1 im1 re0 im0) = true := by
  have hprod {z x : Sample} (hz : Fp.isZero z = true) (hx : Fp.isFinite x = true) : Fp.isZero (Fp.fmul z x) = true :=
    Fp.isZero_fmul (Fp.isFinite_of_isZero hz) hx (.inl hz)
  exact ⟨Fp.isZero_fsub (hprod hre1 him0) (hprod him1 hre0), Fp.isZero_fadd (hprod hre1 hre0) (hprod him1 him0)⟩

theorem exec_discStep {s : State} (ha : s.issuer = .host) (hs : s.seq = .ready) (re0 im0 : Sample) :
    exec (.discStep re0 im0) s = .next { s with
      prevRe := re0, prevIm := im0
      reply := some (.ok [discOut s.cfg.gain (discCross s.prevRe s.prevIm re0 im0)
        (discDot s.prevRe s.prevIm re0 im0)]) } :=
  exec_of_admits_host_ready ha hs rfl rfl

/-- Settles O29: the two patterns of a zero are the fallback's, all others the division's. -/
theorem discStepResult : Obligations.DiscStepResult := by
  intro re0 im0 s ha hs cross dot
  rw [exec_discStep ha hs]
  refine ⟨fun hdot => ?_, fun hpos hneg => ?_⟩
  · have hzero : Fp.isZero (discDot s.prevRe s.prevIm re0 im0) = true := (Fp.isZero_iff_eq dot).mpr hdot
    rw [discOut_of_isZero _ _ hzero]
    rfl
  · have hzero : Fp.isZero (discDot s.prevRe s.prevIm re0 im0) = false :=
      Bool.eq_false_iff.mpr fun h => ((Fp.isZero_iff_eq dot).mp h).elim hpos hneg
    rw [discOut_of_not_isZero _ _ hzero]
    rfl

/-- Settles O30: `cross` and `dot` are zeros, and the arctangent and the gain keep the zero. -/
theorem firstDiscriminatorOutputIsZero : Obligations.FirstDiscriminatorOutputIsZero := by
  intro s re0 im0 hre him hre0 him0 hgain
  obtain ⟨hcross, hdot⟩ := isZero_cross_dot (re1 := s.prevRe) (im1 := s.prevIm) (by rw [hre]; rfl) (by rw [him]; rfl)
    hre0 him0
  show Fp.isZero (discOut _ _ _) = true
  rw [discOut_of_isZero _ _ hdot, Fp.fatan_of_isZero hcross]
  exact Fp.isZero_fmul hgain (Fp.isFinite_of_isZero hcross) (.inr hcross)

/-- Settles O31: `dot` is `+0` for both samples, so that the output is formed from `cross`, which is 1 and 2. -/
theorem fallbackIsNotTheLimit : Obligations.FallbackIsNotTheLimit := by
  intro s hre him
  obtain ⟨hcross, hdot⟩ : discCross 0x3F800000#32 0#32 0#32 0x3F800000#32 = 0x3F800000#32 ∧
      discDot 0x3F800000#32 0#32 0#32 0x3F800000#32 = posZero := by decide
  obtain ⟨hcross', hdot'⟩ : discCross 0x3F800000#32 0#32 0#32 0x40000000#32 = 0x40000000#32 ∧
      discDot 0x3F800000#32 0#32 0#32 0x40000000#32 = posZero := by decide
  simp only [State.discStep, hre, him]
  exact ⟨by rw [hcross, hdot, discOut_of_isZero _ _ rfl], by rw [hcross', hdot', discOut_of_isZero _ _ rfl]⟩

/-- Settles O32: the output is `discOut` of the NaN, and the step writes both registers. -/
theorem discriminatorNaN : Obligations.DiscriminatorNaN :=
  fun _ _ _ => ⟨isNaN_discOut _ _, rfl, rfl⟩

end Sys2Proof.Machine
end

section
/-! PROOFS. The rules of 44_processing_loop.md: the three LOOP steps in the words of R181 to R184, what `LOOP.COMPUTE`
shares with no other agent, the three steps that work off one Sample, and the steps that lead a stopped loop to `HALTED`. -/

namespace Sys2Proof.Machine

/-! PROC's turn (R186, R206) -/

section Turn
variable {s : State} {i : Instr} (ha : s.issuer = .proc)
include ha

theorem fetch_of_loopStep (hi : s.seq.loopStep = some i) : s.fetch = .command i s.noAnswer := by
  simp [State.fetch, ha, hi]

theorem fetch_of_no_loopStep (hi : s.seq.loopStep = none) : s.fetch = .nothing s.noAnswer := by
  simp [State.fetch, ha, hi]

theorem admits_loopStep (hi : s.seq.loopStep = some i) : admits s.issuer s.seq i = true := by
  rw [ha, admits_proc]
  cases hs : s.seq <;> rw [hs] at hi <;> cases hi <;> rfl

theorem exec_loopStep {t : State} (hi : s.seq.loopStep = some i) (he : Effect i s t) : exec i s = .next t :=
  exec_next.mpr (.inr ⟨admits_loopStep ha hi, he⟩)

theorem step_loopStep {t : State} (hi : s.seq.loopStep = some i) (he : Effect i s.noAnswer t) :
    step s = .next t.endTurn :=
  step_next.mpr (.inl ⟨i, _, t, fetch_of_loopStep ha hi, exec_loopStep (s := s.noAnswer) ha hi he, rfl⟩)

end Turn

/-- Settles O8: PROC's next operation is the LOOP step of its phase, and `exec` leaves the schedule for the turn's end. -/
theorem stepRunsLoopPhase : Obligations.StepRunsLoopPhase := by
  refine fun s ha => ⟨fun i hi => ?_, fun hs => ?_⟩
  · have hloop : s.seq.loopStep = some i := by
      rcases hi with ⟨hs, rfl⟩ | ⟨hs, rfl⟩ | ⟨hs, rfl⟩ <;> rw [hs] <;> rfl
    have hstep : step s = endStep (exec i { s with reply := none }) := by rw [step, fetch_of_loopStep ha hloop]; rfl
    rw [hstep]
    cases hexec : exec i { s with reply := none } with
    | next t =>
      have hsched : t.schedule = s.schedule := (exec_interface hexec).1
      simp [endStep, State.endTurn, hsched]
    | fault e => rfl
    | refused r => rfl
  · have hnone : s.seq.loopStep = none := by rcases hs with hs | hs <;> rw [hs] <;> rfl
    rw [step, fetch_of_no_loopStep ha hnone]
    rfl

/-! The three LOOP steps (R181, R182, R183) -/

/-- Settles O38: the three branches of an admitted `LOOP.FETCH`. -/
theorem loopFetchResult : Obligations.LoopFetchResult := by
  intro s ha hs
  have fetched {t : State} : Effect .loopFetch s t → exec .loopFetch s = .next t := exec_loopStep ha (by rw [hs]; rfl)
  exact ⟨fun hstop => fetched (.inl ⟨hstop, rfl⟩), fun hrun he => fetched (.inr (.inl ⟨hrun, he, rfl⟩)),
    fun v hrun hne hv => fetched (.inr (.inr ⟨hrun, hne, v, hv, rfl⟩))⟩

theorem exec_loopEmit {s : State} (ha : s.issuer = .proc) (hs : s.seq = .emit) :
    exec .loopEmit s = .next { s.noAnswer with outb := (s.outb.push s.cfg.ringOut.cap s.aHold).1, seq := .fetch } :=
  exec_loopStep ha (by rw [hs]; rfl) rfl

section Emit
variable {s : State} (ha : s.issuer = .proc) (hs : s.seq = .emit) (hcap : 1 ≤ s.cfg.ringOut.cap)
include ha hs hcap

theorem exec_loopEmit_full
    (hocc : ((s.outb.tail : Int) - s.outb.head) % (2 * s.cfg.ringOut.cap) = s.cfg.ringOut.cap) :
    exec .loopEmit s = .next { s.noAnswer with outb := s.outb.setOvf, seq := .fetch } := by
  rw [exec_loopEmit ha hs, Ring.push_full ((s.outb.occ_eq_cap_iff hcap).mpr hocc)]

theorem exec_loopEmit_room
    (hocc : ((s.outb.tail : Int) - s.outb.head) % (2 * s.cfg.ringOut.cap) ≠ s.cfg.ringOut.cap) :
    exec .loopEmit s = .next { s.noAnswer with outb := s.outb.store s.cfg.ringOut.cap s.aHold, seq := .fetch } := by
  rw [exec_loopEmit ha hs, Ring.push_room (mt (s.outb.occ_eq_cap_iff hcap).mp hocc)]

end Emit

/-- Settles O40: the push of an admitted `LOOP.EMIT`, on a full buffer and on one with room. -/
theorem loopEmitResult : Obligations.LoopEmitResult := fun _ ha hs hcap =>
  ⟨exec_loopEmit_full ha hs hcap, exec_loopEmit_room ha hs hcap⟩

theorem discOut_eq (gain cross dot : Sample) :
    discOut gain cross dot = Fp.fmul gain (Fp.fatan (if Fp.isZero dot then cross else Fp.fdiv cross dot)) :=
  (apply_ite (fun x => Fp.fmul gain (Fp.fatan x)) _ _ _).symm

/-- The state `LOOP.COMPUTE` leaves (R182). -/
def State.computed (s : State) : State :=
  { (s.pipe s.sHold).1.noAnswer with aHold := (s.pipe s.sHold).2, seq := .emit }

theorem exec_loopCompute {s : State} (ha : s.issuer = .proc) (hs : s.seq = .compute) :
    exec .loopCompute s = .next s.computed :=
  exec_loopStep ha (by rw [hs]; rfl) rfl

/-- `Pipe` is put together from the results of its five stages (R184). -/
theorem State.pipe_of_stages {s s₁ s₂ s₃ s₄ : State} {x i q fi fq d : Sample} {r : State × Sample}
    (hmix : s.mixStep x = (s₁, i, q)) (hI : s₁.firStep .i i = (s₂, fi)) (hQ : s₂.firStep .q q = (s₃, fq))
    (hdisc : s₃.discStep fi fq = (s₄, d)) (hO : s₄.firStep .o d = r) : s.pipe x = r := by
  simp only [State.pipe, hmix, hI, hQ, hdisc, hO]

/-- Settles O39, stage by stage: no stage of `Pipe` writes the history that a later filter reads. -/
theorem loopComputeResult : Obligations.LoopComputeResult := by
  intro s ha hs h iq wI wQ fi fq cross dot d wO
  have hfir (f : FirId) : 1 ≤ (s.cfg.fir f).taps ∧ (s.cfg.fir f).coef.length = (s.cfg.fir f).taps := by
    obtain ⟨⟨_, htaps⟩, hcoef, _⟩ := firCfg_ok.mp (Cfg_fir_ok h.cfgOk f)
    exact ⟨htaps, hcoef⟩
  have hI : (s.mixStep s.sHold).1.firStep .i iq.1 = ({ s with quad := s.quad + 1, wI := wI }, fi) := by
    apply State.firStep_eq
    exacts [(hfir .i).2, h.lenI, (hfir .i).1]
  have hQ : { s with quad := s.quad + 1, wI := wI }.firStep .q iq.2 =
      ({ s with quad := s.quad + 1, wI := wI, wQ := wQ }, fq) := by
    apply State.firStep_eq
    exacts [(hfir .q).2, h.lenQ, (hfir .q).1]
  have hdisc : { s with quad := s.quad + 1, wI := wI, wQ := wQ }.discStep fi fq =
      ({ s with quad := s.quad + 1, wI := wI, wQ := wQ, prevRe := fi, prevIm := fq }, d) :=
    Prod.ext rfl (discOut_eq s.cfg.gain cross dot)
  have hO : { s with quad := s.quad + 1, wI := wI, wQ := wQ, prevRe := fi, prevIm := fq }.firStep .o d =
      ({ s with quad := s.quad + 1, wI := wI, wQ := wQ, prevRe := fi, prevIm := fq, wO := wO },
        firSumByIndex s.cfg.firO.coef wO s.cfg.firO.taps) := by
    apply State.firStep_eq
    exacts [(hfir .o).2, h.lenO, (hfir .o).1]
  rw [exec_loopCompute ha hs, State.computed, State.pipe_of_stages rfl hI hQ hdisc hO]
  rfl

/-! `LOOP.COMPUTE` and the other agents (R188) -/

/-- What another agent may issue is the same before and after `LOOP.COMPUTE`. -/
theorem admits_compute_eq_emit {a : Agent} (ha : a ≠ .proc) (i : Instr) : admits a .compute i = admits a .emit i := by
  cases a with
  | proc => exact absurd rfl ha
  | cap | play | host => cases i <;> rfl

/-- An operation of CAP, PLAY or HOST but reset leaves the phase of a started loop. -/
theorem exec_seq_of_external {i : Instr} {s t : State} (h : exec i s = .next t) (ha : s.issuer ≠ .proc)
    (hs : s.seq ≠ .ready) (hi : i ≠ .sysReset) : t.seq = s.seq := by
  cases hissuer : s.issuer with
  | proc => exact absurd hissuer ha
  | cap => exact (congrArg State.seq (exec_cap_frame h hissuer) :)
  | play => exact (congrArg State.seq (exec_play_frame h hissuer) :)
  | host => exact (congrArg State.seq (exec_host_running_frame h hissuer hs hi) :)

theorem State.status_computed {s : State} (hs : s.seq = .compute) : s.computed.status = s.status := by
  simp [State.status, State.computed, hs, Phase.run]

/-- Whatever another agent's operation does after `LOOP.COMPUTE`, it does before it. -/
theorem effect_computed {i : Instr} {s t : State} (ha : s.issuer ≠ .proc) (hs : s.seq = .compute) (hi : i ≠ .sysReset)
    (hadm : admits s.issuer s.seq i = true) (h : Effect i s.computed t) :
    ∃ u, Effect i s u ∧ t = { u.computed with reply := u.reply } := by
  cases hissuer : s.issuer <;> rw [hissuer] at hadm
  case proc => exact absurd hissuer ha
  case cap =>
    obtain ⟨v, rfl⟩ | rfl := admits_cap.mp hadm <;> cases h <;> exact ⟨_, rfl, rfl⟩
  case play =>
    obtain rfl | rfl := admits_play.mp hadm
    · rcases State.popAnswered_next.mp h with ⟨he, rfl⟩ | ⟨he, v, hv, rfl⟩
      · exact ⟨_, State.popAnswered_next.mpr (.inl ⟨he, rfl⟩), rfl⟩
      · exact ⟨_, State.popAnswered_next.mpr (.inr ⟨he, v, hv, rfl⟩), rfl⟩
    · cases h; exact ⟨_, rfl, rfl⟩
  case host =>
    have hrun : s.seq ≠ .ready := by rw [hs]; decide
    obtain rfl | rfl | rfl | rfl := (admits_host_running hrun).mp hadm
    · exact absurd rfl hi
    · exact ⟨_, (if_neg hrun).symm, h⟩
    · cases h; exact ⟨_, rfl, rfl⟩
    · cases h; exact ⟨_, rfl, by rw [State.status_computed hs]; rfl⟩

theorem exec_computed {i : Instr} {s t : State} (ha : s.issuer ≠ .proc) (hs : s.seq = .compute) (hi : i ≠ .sysReset)
    (h : exec i s.computed = .next t) : ∃ u, exec i s = .next u ∧ t = { u.computed with reply := u.reply } := by
  have hadm : admits s.computed.issuer s.computed.seq i = admits s.issuer s.seq i := by
    rw [hs]; exact (admits_compute_eq_emit ha i).symm
  rcases exec_next.mp h with ⟨hn, rfl⟩ | ⟨hy, he⟩
  · exact ⟨_, exec_unadmitted (hadm.symm.trans hn), rfl⟩
  · obtain ⟨u, hu, ht⟩ := effect_computed ha hs hi (hadm.symm.trans hy) he
    exact ⟨u, exec_next.mpr (.inr ⟨hadm.symm.trans hy, hu⟩), ht⟩

/-- Settles O42: the schedule only names the issuer, and with it set the other agent's operation finds the loop in
`COMPUTE` as it finds it in `EMIT`. -/
theorem computeCommutesWithOthers : Obligations.ComputeCommutesWithOthers := by
  intro s t1 t2 a i hs ha hi h1 h2
  obtain rfl := next_eq_next.mp ((exec_loopCompute (s := { s with schedule := [.proc] }) rfl hs).symm.trans h1)
  obtain ⟨u, hu, rfl⟩ := exec_computed (s := { s with schedule := [a] }) ha hs hi h2
  have hseq : u.seq = .compute := (exec_seq_of_external hu ha (by rw [hs]; decide) hi).trans hs
  have hsched : u.schedule = [a] := (exec_interface hu).1
  refine ⟨u, _, hu, rfl, exec_loopCompute (s := { u with schedule := [.proc] }) rfl hseq, ?_⟩
  show { u.computed with schedule := [a], reply := u.reply } = { u.computed with reply := u.reply }
  rw [← hsched]
  rfl

/-! PROC alone (R180, R189) -/

theorem run_succ {s t : State} (h : step s = .next t) (n : Nat) :
    Host.Core.run Sys2Proof.core (n + 1) s = Host.Core.run Sys2Proof.core n t := by
  have hcore {M : Host.Core} {s t : M.State} (h : M.step s = .next t) : M.run (n + 1) s = M.run n t := by
    rw [Host.Core.run, h]
  exact hcore h

/-- With nothing scheduled PROC moves, and nothing is left of its turn. -/
theorem step_alone {i : Instr} {s t : State} (hsched : s.schedule = []) (hi : s.seq.loopStep = some i)
    (he : Effect i s.noAnswer t) : step s = .next t := by
  have ha : s.issuer = .proc := by rw [State.issuer, hsched]; rfl
  have ht : t.schedule = [] := (exec_interface (exec_loopStep (s := s.noAnswer) ha hi he)).1.trans hsched
  have hend : t.endTurn = t := by rw [State.endTurn, ht, List.tail_nil, ← ht]
  rw [step_loopStep ha hi he, hend]

/-- The state after the three LOOP steps that work off the oldest Sample `x` of `IN` (R180). -/
def State.workedOff (s : State) (x : Sample) : State :=
  { (s.pipe x).1.noAnswer with
    inb := s.inb.advance s.cfg.ringIn.cap
    outb := (s.outb.push s.cfg.ringOut.cap (s.pipe x).2).1
    sHold := x, aHold := (s.pipe x).2, seq := .fetch }

theorem run_workedOff {s : State} {x : Sample} (hs : s.seq = .fetch) (hstop : s.stop = false) (hsched : s.schedule = [])
    (hne : s.inb.head ≠ s.inb.tail) (hx : s.inb.slots.read (slotOf s.cfg.ringIn.cap s.inb.head) = some x) (n : Nat) :
    Host.Core.run Sys2Proof.core (n + 3) s = Host.Core.run Sys2Proof.core n (s.workedOff x) := by
  have hfetch := step_alone (i := .loopFetch) hsched (by rw [hs]; rfl) (.inr (.inr ⟨hstop, hne, x, hx, rfl⟩))
  have hcompute := step_alone (i := .loopCompute) (s := { s.noAnswer with
    inb := s.inb.advance s.cfg.ringIn.cap, sHold := x, seq := .compute }) hsched rfl rfl
  have hemit := step_alone (i := .loopEmit) (s := { (s.pipe x).1.noAnswer with
    inb := s.inb.advance s.cfg.ringIn.cap, sHold := x, aHold := (s.pipe x).2, seq := .emit }) hsched rfl rfl
  exact (run_succ hfetch (n + 2)).trans ((run_succ hcompute (n + 1)).trans (run_succ hemit n))

theorem State.Inv.workedOff {s : State} (h : s.Inv) (hne : s.inb.head ≠ s.inb.tail) (x : Sample) : (s.workedOff x).Inv :=
  { h.pipe x with ingress := h.ingress.advance hne, egress := h.egress.push _ }

/-- A push appends what the buffer has room for. -/
theorem Ring.Inv.contents_push {cap : Nat} {r : Ring} (h : r.Inv cap) (v : Sample) :
    (r.push cap v).1.contents cap = (r.contents cap ++ [some v]).take cap := by
  have hlen := r.length_contents cap
  by_cases hfull : r.occ cap = cap
  · rw [Ring.push_full hfull, List.take_append_of_le_length (by omega), List.take_of_length_le (by omega)]
    rfl
  · have hlt := h.occ_lt hfull
    rw [Ring.push_room hfull, h.contents_store hfull, List.take_of_length_le (by simp; omega)]

theorem take_take_append {α : Type} (n : Nat) (l l' : List α) : (l.take n ++ l').take n = (l ++ l').take n := by
  simp only [List.take_append, List.take_take, List.length_take, min_self, List.append_cancel_left_eq]
  congr 1
  omega

/-- What `Pipe` gives depends on the datapath alone: on no buffer, and on none of the loop's own registers. -/
theorem State.pipeAll_frame (s : State) (rIn rOut : Ring) (x a : Sample) (ph : Phase) (rep : Option Response)
    (xs : List Sample) :
    { s with inb := rIn, outb := rOut, sHold := x, aHold := a, seq := ph, reply := rep }.pipeAll xs =
      s.pipeAll xs := by
  induction xs generalizing s with
  | nil => rfl
  | cons y ys ih => exact congrArg ((s.pipe y).2 :: ·) (ih (s.pipe y).1)

/-- Settles O43, by induction on the contents of `IN`: the first Sample takes three steps, after which PROC is alone again
in `FETCH` with the rest. -/
theorem loopWorksOffIngress : Obligations.LoopWorksOffIngress := by
  intro s q h hs hstop hsched hq
  induction q generalizing s with
  | nil =>
    have hlen := s.outb.length_contents s.cfg.ringOut.cap
    have hle := h.egress.occ_le
    refine ⟨s, rfl, h, hs, hq, ?_, (Nat.mod_eq_of_lt s.quad.isLt).symm⟩
    rw [State.pipeAll, List.map_nil, List.append_nil, List.take_of_length_le (by omega)]
  | cons x q ih =>
    have hne : s.inb.head ≠ s.inb.tail := mt h.ingress.contents_eq_nil_iff.mpr (by simp [hq])
    obtain ⟨hx, hq'⟩ := List.cons.inj ((h.ingress.contents_advance hne).symm.trans hq)
    obtain ⟨t, hrun, hinv, hseq, hin, hout, hquad⟩ := ih (s.workedOff x) (h.workedOff hne x) rfl hstop hsched hq'
    refine ⟨t, (run_workedOff hs hstop hsched hne hx _).trans hrun, hinv, hseq, hin, ?_, ?_⟩
    · have hpush : (s.workedOff x).outb.contents s.cfg.ringOut.cap =
          (s.outb.contents s.cfg.ringOut.cap ++ [some (s.pipe x).2]).take s.cfg.ringOut.cap := h.egress.contents_push _
      have hpipe : (s.workedOff x).pipeAll q = (s.pipe x).1.pipeAll q := State.pipeAll_frame (s.pipe x).1 _ _ _ _ _ _ _
      have hcfg : (s.workedOff x).cfg = s.cfg := rfl
      rw [hout, hcfg, hpush, hpipe, take_take_append, List.append_assoc]
      rfl
    · have hadv : (s.workedOff x).quad.toNat = (s.quad.toNat + 1) % 4 := BitVec.toNat_add _ _
      rw [hquad, hadv, List.length_cons]
      omega

/-! A stopped loop (R186, R31) -/

/-- Where a step of PROC leads a stopped loop (R186). -/
def Phase.towardHalt : Phase → Phase
  | .compute => .emit
  | .emit => .fetch
  | _ => .halted

/-- How many steps of PROC a stopped loop takes to `HALTED` (R186). -/
def Phase.stepsToHalt : Phase → Nat
  | .compute => 3
  | .emit => 2
  | .fetch => 1
  | _ => 0

theorem Phase.towardHalt_ne_ready (ph : Phase) : ph.towardHalt ≠ .ready := by cases ph <;> decide

theorem Phase.towardHalt_thrice (ph : Phase) : ph.towardHalt.towardHalt.towardHalt = .halted := by cases ph <;> rfl

theorem Phase.stepsToHalt_towardHalt (ph : Phase) : ph.towardHalt.stepsToHalt = ph.stepsToHalt - 1 := by cases ph <;> rfl

theorem Phase.stepsToHalt_le_three (ph : Phase) : ph.stepsToHalt ≤ 3 := by cases ph <;> decide

theorem Phase.eq_halted_of_stepsToHalt {ph : Phase} (hne : ph ≠ .ready) (h : ph.stepsToHalt = 0) : ph = .halted := by
  cases ph with
  | ready => exact absurd rfl hne
  | halted => rfl
  | fetch | compute | emit => cases h

/-- A stopped loop's step of PROC: it pops nothing, so it cannot fault. -/
theorem step_proc_stopped {s : State} (ha : s.issuer = .proc) (hstop : s.stop = true) (hs : s.seq ≠ .ready) :
    ∃ t, step s = .next t ∧ t.stop = true ∧ t.schedule = s.schedule.tail ∧ t.seq = s.seq.towardHalt := by
  cases hseq : s.seq with
  | ready => exact absurd hseq hs
  | fetch => exact ⟨_, step_loopStep (i := .loopFetch) ha (by rw [hseq]; rfl) (.inl ⟨hstop, rfl⟩), hstop, rfl, rfl⟩
  | compute => exact ⟨_, step_loopStep (i := .loopCompute) ha (by rw [hseq]; rfl) rfl, hstop, rfl, rfl⟩
  | emit => exact ⟨_, step_loopStep (i := .loopEmit) ha (by rw [hseq]; rfl) rfl, hstop, rfl, rfl⟩
  | halted =>
    have hfetch : s.fetch = .nothing s.noAnswer := fetch_of_no_loopStep ha (by rw [hseq]; rfl)
    exact ⟨_, step_next.mpr (.inr (.inr ⟨_, hfetch, rfl⟩)), hstop, rfl, hseq⟩

theorem exec_keeps_stop {i : Instr} {s t : State} (h : exec i s = .next t) (hi : i ≠ .sysReset) (hstop : s.stop = true) :
    t.stop = true := by
  by_contra hne
  obtain ⟨_, ⟨_, ht⟩ | ⟨hreset, _⟩⟩ := stopFlagRule i s t h (by rwa [hstop])
  · exact hne ht
  · exact hi hreset

theorem step_schedule {s t : State} (h : step s = .next t) : t.schedule = s.schedule.tail := by
  obtain ⟨bs, ⟨i, v, hx, rfl⟩ | rfl | rfl⟩ := step_cases h
  · rw [State.endTurn_schedule, (exec_interface hx).1, State.setPort_schedule, State.noAnswer_schedule]
  · simp
  · simp

/-- A step but a reset keeps `STOP` set; another agent's leaves the phase of a started loop, PROC's leads to `HALTED`. -/
theorem step_stopped {s t : State} (hstop : s.stop = true) (hs : s.seq ≠ .ready)
    (hreset : ∀ u, s.fetch ≠ .command .sysReset u) (h : step s = .next t) :
    t.stop = true ∧ (s.issuer ≠ .proc → t.seq = s.seq) ∧ (s.issuer = .proc → t.seq = s.seq.towardHalt) := by
  by_cases ha : s.issuer = .proc
  · obtain ⟨t', h', hstop', _, hseq⟩ := step_proc_stopped ha hstop hs
    obtain rfl := next_eq_next.mp (h'.symm.trans h)
    exact ⟨hstop', absurd ha, fun _ => hseq⟩
  suffices hkept : t.stop = true ∧ t.seq = s.seq from ⟨hkept.1, fun _ => hkept.2, (absurd · ha)⟩
  obtain ⟨bs, ⟨i, hf⟩ | hf | hf⟩ := fetch_state s <;> rw [step, hf] at h
  · obtain ⟨v, hx, rfl⟩ := endStep_next.mp h
    have hi : i ≠ .sysReset := fun hi => hreset _ (hi ▸ hf)
    have hv : v.stop = true := exec_keeps_stop hx hi (by simpa using hstop)
    have hseq := exec_seq_of_external hx (by simpa using ha) (by simpa using hs) hi
    exact ⟨hv, by simpa using hseq⟩
  · obtain rfl := next_eq_next.mp h
    simpa using hstop
  · obtain rfl := next_eq_next.mp h
    simpa using hstop

/-- Settles O59: `Phase.towardHalt` is the way to `HALTED` that it names. -/
theorem stoppedLoopMovesTowardHalt : Obligations.StoppedLoopMovesTowardHalt := fun _ _ => step_stopped

theorem State.procTurns_succ {s t : State} (h : t.schedule = s.schedule.tail) (n : Nat) :
    s.procTurns (n + 1) = t.procTurns n + if s.issuer = .proc then 1 else 0 := by
  have hhead : s.schedule.getD 0 .proc = s.issuer := by cases hl : s.schedule <;> simp [State.issuer, hl]
  have htail (k : Nat) : s.schedule.getD (k + 1) .proc = t.schedule.getD k .proc := by
    rw [h]; cases s.schedule <;> rfl
  rw [State.procTurns, List.range_succ_eq_map, List.countP_cons, List.countP_map, hhead]
  simp only [Function.comp_def, htail, beq_iff_eq]
  rfl

theorem State.NoResetWithin.fetch_ne {s : State} {n : Nat} (h : s.NoResetWithin (n + 1)) (u : State) :
    s.fetch ≠ .command .sysReset u := h 0 s u n.succ_pos rfl

theorem State.NoResetWithin.of_step {s t : State} {n : Nat} (h : s.NoResetWithin (n + 1)) (hstep : step s = .next t) :
    t.NoResetWithin n :=
  fun k t' u hk hrun => h (k + 1) t' u (Nat.succ_lt_succ hk) ((run_succ hstep k).trans hrun)

/-- Three steps of PROC alone bring a stopped loop to `HALTED`. -/
theorem exists_halted_of_alone {s : State} (hstop : s.stop = true) (hs : s.seq ≠ .ready) (hsched : s.schedule = []) :
    ∃ t : State, Host.Core.run Sys2Proof.core 3 s = .next t ∧ t.seq = .halted := by
  have alone {u : State} (hu : u.schedule = []) (hustop : u.stop = true) (hne : u.seq ≠ .ready) :
      ∃ v, step u = .next v ∧ v.stop = true ∧ v.schedule = [] ∧ v.seq = u.seq.towardHalt := by
    simpa [hu] using step_proc_stopped (by rw [State.issuer, hu]; rfl) hustop hne
  obtain ⟨t₁, h₁, hstop₁, hsched₁, hseq₁⟩ := alone hsched hstop hs
  obtain ⟨t₂, h₂, hstop₂, hsched₂, hseq₂⟩ := alone hsched₁ hstop₁ (hseq₁ ▸ Phase.towardHalt_ne_ready _)
  obtain ⟨t₃, h₃, _, _, hseq₃⟩ := alone hsched₂ hstop₂ (hseq₂ ▸ Phase.towardHalt_ne_ready _)
  refine ⟨t₃, ?_, by rw [hseq₃, hseq₂, hseq₁, Phase.towardHalt_thrice]⟩
  exact (run_succ h₁ 2).trans ((run_succ h₂ 1).trans (run_succ h₃ 0))

/-- A stopped loop is `HALTED` after any run in which PROC has as many turns as its phase is away from it. -/
theorem exists_halted_of_procTurns {n : Nat} {s : State} (h : s.Inv) (hstop : s.stop = true) (hs : s.seq ≠ .ready)
    (hno : s.NoResetWithin n) (hn : s.seq.stepsToHalt ≤ s.procTurns n) :
    ∃ t : State, Host.Core.run Sys2Proof.core n s = .next t ∧ t.seq = .halted := by
  induction n generalizing s with
  | zero => exact ⟨s, rfl, Phase.eq_halted_of_stepsToHalt hs (Nat.le_zero.mp hn)⟩
  | succ n ih =>
    obtain ⟨t, ht⟩ := invStepNeverStops s h
    obtain ⟨hstop', hother, hproc⟩ := step_stopped hstop hs hno.fetch_ne ht
    rw [State.procTurns_succ (step_schedule ht)] at hn
    have ⟨hne, hle⟩ : t.seq ≠ .ready ∧ t.seq.stepsToHalt ≤ t.procTurns n := by
      by_cases ha : s.issuer = .proc
      · rw [if_pos ha] at hn
        rw [hproc ha, Phase.stepsToHalt_towardHalt]
        exact ⟨Phase.towardHalt_ne_ready _, by omega⟩
      · rw [if_neg ha] at hn
        rw [hother ha]
        exact ⟨hs, hn⟩
    obtain ⟨t', hrun, hhalted⟩ := ih (stepKeepsInv s t h ht) hstop' hne (hno.of_step ht) hle
    exact ⟨t', (run_succ ht n).trans hrun, hhalted⟩

/-- Settles O44: the three turns of PROC are its next three steps, or stand anywhere in the run. -/
theorem stopHaltsWithinOneIteration : Obligations.StopHaltsWithinOneIteration :=
  ⟨fun _ hstop hs hsched => exists_halted_of_alone hstop (by rintro hr; simp [hr] at hs) hsched,
    fun _ s h hstop hs hno hn => exists_halted_of_procTurns h hstop hs hno (s.seq.stepsToHalt_le_three.trans hn)⟩

end Sys2Proof.Machine
end

section
/-! PROOFS. The rules of 45_system.md: HOST's four system operations, which are admitted in every phase, and what leads
out of `HALTED`. -/

namespace Sys2Proof.Machine

/-! HOST's operations in any phase (R200, R201, R203, R204) -/

theorem exec_of_admits_host {s t : State} {i : Instr} (ha : s.issuer = .host) (hi : admits .host s.seq i = true)
    (h : Effect i s t) : exec i s = .next t :=
  exec_next.mpr (.inr ⟨by rw [ha, hi], h⟩)

/-- A stopped loop's `LOOP.FETCH` halts it (44_processing_loop.md R181). -/
theorem exec_loopFetch_stopped {s : State} (ha : s.issuer = .proc) (hs : s.seq = .fetch) (hstop : s.stop = true) :
    exec .loopFetch s = .next { s.noAnswer with seq := .halted } :=
  exec_loopStep ha (by rw [hs]; rfl) (.inl ⟨hstop, rfl⟩)

/-- Settles O12: the two branches of `SYS.START`, and PROC's first step where `STOP` is set already. -/
theorem sysStartResult : Obligations.SysStartResult := by
  refine fun s ha => ⟨fun hs => ?_, fun hs => ?_, fun _ hstop => ?_⟩
  · exact exec_of_admits_host ha rfl (if_pos hs).symm
  · exact exec_of_admits_host ha rfl (if_neg hs).symm
  · exact exec_loopFetch_stopped rfl rfl hstop

/-- Settles O13: `SYS.STOP` has one effect, and the `LOOP.FETCH` after it finds `STOP` set. -/
theorem sysStopResult : Obligations.SysStopResult := fun _ =>
  ⟨fun ha => exec_of_admits_host ha rfl rfl, fun hs => exec_loopFetch_stopped rfl hs rfl⟩

/-! The `STATUS` word (10_state.md R32) -/

theorem toNat_append_eq_add {n m : Nat} (x : BitVec n) (y : BitVec m) : (x ++ y).toNat = 2 ^ m * x.toNat + y.toNat := by
  rw [BitVec.toNat_append, ← Nat.shiftLeft_add_eq_or_of_lt y.isLt, Nat.shiftLeft_eq, Nat.mul_comm]

theorem State.toNat_status (s : State) : s.status.toNat =
    s.seq.run.toNat + 4 * s.stop.toNat + 8 * s.inb.ovf.toNat + 16 * s.inb.unf.toNat + 32 * s.outb.ovf.toNat +
      64 * s.outb.unf.toNat := by
  simp only [State.status, toNat_append_eq_add, BitVec.toNat_ofBool, BitVec.toNat_zero]
  ring

/-- Settles O14: the answer is `STATUS`, extended by zeros. -/
theorem sysStatusResult : Obligations.SysStatusResult := by
  intro s ha
  refine ⟨s.status.zeroExtend 32, exec_of_admits_host ha rfl rfl, ?_⟩
  refine ((BitVec.toNat_setWidth_of_le (by decide)).trans s.toNat_status).trans ?_
  cases s.seq <;> rfl

/-! The machine that `SYS.RESET` leaves (10_state.md R36) -/

theorem State.reconstruct_ring (s : State) (rb : RingId) : s.reconstruct.ring rb = .construct (s.cfg.ring rb) := by
  cases rb <;> rfl

theorem Cfg_ring_ok {c : Cfg} (h : c.ok = true) (rb : RingId) : (c.ring rb).ok = true := by
  simp only [Cfg.ok, Bool.and_eq_true] at h
  obtain ⟨⟨⟨⟨_, hin⟩, hout⟩, _⟩, _⟩ := h
  cases rb
  · exact hin
  · exact hout

/-- The pre-fill is the contents: `PRE` Samples of `+0` from slot 0 on, none of them past the last slot. -/
theorem Ring.contents_construct {r : RingCfg} (h : r.ok = true) :
    (Ring.construct r).contents r.cap = List.replicate r.pre (some posZero) := by
  obtain ⟨_, hpre⟩ := ringCfg_ok.mp h
  have hread (j : Nat) (hj : j < r.pre) : (Slots.prefilled r.pre).read (slotOf r.cap (0 + j)) = some posZero := by
    rw [slotOf, Nat.zero_add, Nat.mod_eq_of_lt (hj.trans_le hpre), Slots.read_prefilled hj]
  rw [Ring.contents, Ring.occ_construct h, List.eq_replicate_iff]
  exact ⟨by simp, by simpa [Ring.construct] using hread⟩

/-- Settles O11: the two branches of `SYS.RESET`; each ring buffer that the first leaves is the constructed one. -/
theorem sysResetResult : Obligations.SysResetResult := by
  refine fun s ha => ⟨fun hbad => ?_, fun hok => ?_⟩
  · exact exec_of_admits_host ha rfl (if_neg (by simp [hbad])).symm
  have hstatus : (s.reconstruct.answer (.ok [])).status = 0x0000#16 :=
    BitVec.eq_of_toNat_eq (by rw [State.toNat_status]; rfl)
  refine ⟨s.reconstruct.answer (.ok []), exec_of_admits_host ha rfl (if_pos hok).symm, rfl, rfl, fun rb => ?_, rfl, rfl, rfl,
    State.construct_hist s.cfg, rfl, rfl, hstatus⟩
  rw [State.answer_ring, State.reconstruct_ring]
  exact ⟨rfl, rfl, fun _ => Slots.read_prefilled, Ring.contents_construct (Cfg_ring_ok hok rb), rfl, rfl⟩

/-! Out of `HALTED` (R206) -/

theorem PhaseChange.of_halted {ph : Phase} {i : Instr} (h : PhaseChange .halted ph i) : ph = .ready ∧ i = .sysReset := by
  cases ph with
  | ready => exact ⟨rfl, h⟩
  | fetch | compute | emit | halted => exact h.elim

theorem exec_from_halted {i : Instr} {s t : State} (hs : s.seq = .halted) (h : exec i s = .next t) (ht : t.seq ≠ .halted) :
    t.seq = .ready ∧ i = .sysReset ∧ s.issuer = .host := by
  have hchange : PhaseChange s.seq t.seq i := phaseChangesAreExactly.1 i s t h (hs ▸ ht)
  rw [hs] at hchange
  obtain ⟨hready, rfl⟩ := hchange.of_halted
  rcases exec_next.mp h with ⟨_, rfl⟩ | ⟨hadm, _⟩
  · exact absurd hs ht
  · exact ⟨hready, rfl, by simpa [admits] using hadm⟩

theorem State.schedule_of_issuer_ne_proc {s : State} (h : s.issuer ≠ .proc) : ∃ later, s.schedule = s.issuer :: later := by
  unfold State.issuer at *
  cases hsched : s.schedule with
  | nil => simp [hsched] at h
  | cons a later => exact ⟨later, rfl⟩

/-- Settles O50: PROC has no step in `HALTED`, so the step is a command on a port, and the only one that changes the phase is
HOST's reset. -/
theorem haltedIsLeftOnlyByReset : Obligations.HaltedIsLeftOnlyByReset := by
  intro s t hs h ht
  rcases fetch_cases s with ⟨_, ⟨i, hi, _⟩ | ⟨_, hf⟩⟩ | ⟨hext, ⟨i, rest, hdec, hf⟩ | ⟨b, rest, _, hf⟩ | ⟨_, hf⟩⟩
  · rw [hs] at hi
    cases hi
  · rw [step, hf] at h
    obtain rfl := next_eq_next.mp h
    simp [hs] at ht
  · rw [step, hf] at h
    obtain ⟨v, hexec, rfl⟩ := endStep_next.mp h
    obtain ⟨hready, rfl, hhost⟩ := exec_from_halted (by simpa using hs) hexec ht
    rw [State.setPort_issuer, State.noAnswer_issuer] at hhost
    obtain ⟨later, hsched⟩ := State.schedule_of_issuer_ne_proc hext
    rw [hhost] at hdec hsched
    exact ⟨hready, later, rest, hsched, hdec⟩
  · rw [step, hf] at h
    obtain rfl := next_eq_next.mp h
    simp [hs] at ht
  · rw [step, hf] at h
    obtain rfl := next_eq_next.mp h
    simp [hs] at ht

end Sys2Proof.Machine
end
